-- ==== Sys2Proof/Word.lean ====
section
/-! DEFINITION. The words of FCLS: bytes and byte strings (spec/00_scope.md rule R12). The words whose widths are named
parameters (R7) are in Config.lean. -/

namespace Sys2Proof

/-- `B[i]` of a byte string: an 8-bit value (R12). -/
abbrev Byte := BitVec 8

/-- A byte string `B[0..n-1]`, offset 0 first (R12). `len(B)` is its `length`. -/
abbrev Bytes := List Byte

end Sys2Proof
end

