-- ==== Sys2Proof/Config.lean ====
section
/-! DEFINITION. The implementation parameters of FCLS (spec/00_scope.md R6, R7) and the one free value of the model.
The five open parameters are a record that `Machine.State` carries in its field `cfg` and that no step writes (R103), so a
statement about every state is a statement about every configuration. Assumption log 1, 2, 3, 16. -/

namespace Sys2Proof

/-- `CRC_VARIANT` = (`POLY`, `INIT`, `REFIN`, `REFOUT`, `XOROUT`) (R100, D1). Any five values, not only the two presets
(DESIGN CHOICE, log 16). -/
structure CrcVariant where
  poly   : BitVec 16
  init   : BitVec 16
  refin  : Bool
  refout : Bool
  xorout : BitVec 16
deriving DecidableEq, Repr

/-- Preset `CCITT_FALSE`, the spec's default (R101). -/
def CrcVariant.ccittFalse : CrcVariant :=
  { poly := 0x1021, init := 0xFFFF, refin := false, refout := false, xorout := 0x0000 }

/-- Preset `ESP_ROM_LE`, the alternative (R101). -/
def CrcVariant.espRomLe : CrcVariant :=
  { poly := 0x1021, init := 0x0000, refin := true, refout := true, xorout := 0xFFFF }

/-- The parameters the source leaves open (R7). `PLEN`, the payload length of a frame FCLS sends, is `L - 9` (R8). -/
structure Config where
  /-- `L`: total length in bytes of a frame FCLS builds. -/
  L          : Nat
  /-- `NMAX`: largest byte string CRC16, DEC and RX accept. -/
  NMAX       : Nat
  /-- `CRC_VARIANT`. -/
  crc        : CrcVariant
  /-- `KIND_BCAST`: the `type` byte of a Broadcast frame (R81). -/
  kindBcast  : Byte
  /-- `KIND_UCAST`: the `type` byte of a Unicast frame (R81). -/
  kindUcast  : Byte
deriving DecidableEq, Repr

/-- The configuration of `State.reset`: the spec's own values of R7, and `L = 14`, which the spec leaves open and its
test vectors use (DESIGN CHOICE, unsafe, log 2: no statement rests on it). -/
def Config.default : Config :=
  { L := 14, NMAX := 250, crc := CrcVariant.ccittFalse, kindBcast := 0x00, kindUcast := 0x01 }

/-! The three widths of R7. They are constants, not fields of `Config`: 10_state R26, R28 and R29 name the widths too, and
TSADJ adds an `OFS_W`-bit offset to a 32-bit timestamp (R164). -/

/-- `ADDR_W`: width in bits of a radio address (R7, D23). -/
abbrev Config.addrW : Nat := 48

/-- `DEVID_W`: width in bits of the `DEVICE_ID` register (R7, D16). -/
abbrev Config.devIdW : Nat := 16

/-- `OFS_W`: width in bits of the `CLOCK_OFFSET` register (R7, D18). -/
abbrev Config.ofsW : Nat := 32

/-- A radio address, octet 0 in bits [47:40] (R26). -/
abbrev Addr := BitVec Config.addrW

/-- What `DEVICE_ID` holds (R28). -/
abbrev DeviceId := BitVec Config.devIdW

/-- What `CLOCK_OFFSET` holds, read as two's complement (R29). -/
abbrev ClockOffset := BitVec Config.ofsW

/-- `BCAST_ADDR`, the all-ones address (R7, D23). -/
def Config.bcastAddr : Addr := 0xFFFFFFFFFFFF

/-- The entropy of the reset that `State.reset` stands just after: a draw, every 32-bit value possible (R221, D21).
A free value: it has no body, so nothing can be proved of it (log 3, safe). -/
opaque Config.startupEntropy : BitVec 32

/-- `TS_UNIT`, the opaque unit of the 32-bit timestamps (R7, D19). No rule depends on it and nothing reads it (log 15). -/
opaque Config.tsUnit : Nat

end Sys2Proof
end

