-- ==== Sys2Proof/Syntax.lean ====
section
/-! DEFINITION. What the host can present to FCLS: the commands of spec/opcode_table.json, the input operands beside a
command word (spec/30_encoding.md R78) and the reset event (spec/70_reset_and_hazards.md R220). -/

namespace Sys2Proof

/-- The kind of a frame, also the index of a sequence counter (R22): Broadcast is 0, Unicast is 1. -/
inductive Kind where
  | broadcast
  | unicast
deriving DecidableEq, Repr

/-- `out.kind`, 1 bit: 0 Broadcast, 1 Unicast (R79). -/
def Kind.code : Kind → BitVec 1
  | .broadcast => 0
  | .unicast => 1

/-- The commands, one constructor per row of spec/opcode_table.json. A command word has no immediate field (R77): the
operands stand in `Inputs`, beside the word, and `K` is spelled by the suffixes B and U (R93). -/
inductive Instr where
  /-- NOP, word 0x00 (R180). -/
  | nop
  /-- CRC16, word 0x01 (R104). -/
  | crc16
  /-- ENC.B, word 0x02 (R106). -/
  | encB
  /-- ENC.U, word 0x12 (R106). -/
  | encU
  /-- DEC, word 0x03 (R108). -/
  | dec
  /-- SEQ.B, word 0x04 (R131). -/
  | seqB
  /-- SEQ.U, word 0x14 (R131). -/
  | seqU
  /-- TX, word 0x05 (R132). -/
  | tx
  /-- RX, word 0x06 (R151). -/
  | rx
  /-- TSADJ, word 0x07 (R164). -/
  | tsadj
  /-- STATUS, word 0x08 (R165). -/
  | status
deriving DecidableEq, Repr

/-- Why a command word is illegal (R75). Every reason raises the one status `IllegalCommand`. -/
inductive Illegal where
  /-- `RSV != 0` (R74). -/
  | reservedBits
  /-- `OP >= 0x9` (R72). -/
  | reservedOp
  /-- `K = 1` with an operation other than ENC and SEQ (R73). -/
  | kindBit
deriving DecidableEq, Repr

/-- The input operands `in.x` presented with a command word, each at its stated width (R78). A command reads only the
ones R78 lists for it, and an illegal word none (R181); the others are ignored. An operand wider than its width cannot
be written here, which is the interface's refusal of it (R207, log 10). -/
structure Inputs where
  /-- `in.bytes` of CRC16, DEC and RX. -/
  bytes     : Bytes
  /-- `in.payload` of ENC and TX. -/
  payload   : Bytes
  /-- `in.seq` of ENC. -/
  seq       : BitVec 16
  /-- `in.magic` of ENC. -/
  magic     : BitVec 32
  /-- `in.src` of RX. -/
  src       : Addr
  /-- `in.dest_match` of RX, the host's destination filter (D12). -/
  destMatch : Bool
  /-- `in.local_time` of RX. -/
  localTime : BitVec 32
  /-- `in.t` of TSADJ. -/
  t         : BitVec 32
deriving DecidableEq, Repr

/-- No operand: empty byte strings and zeros. -/
def Inputs.none : Inputs :=
  { bytes := [], payload := [], seq := 0, magic := 0, src := 0, destMatch := false, localTime := 0, t := 0 }

/-- One event the host causes (R205, R206): a reset with its entropy (R220), or a command word with its operands (R71). -/
inductive HostEvent where
  | reset (entropy : BitVec 32)
  | command (word : BitVec 8) (inputs : Inputs)
deriving DecidableEq, Repr

end Sys2Proof
end

