-- ==== Sys2Proof/Decode.lean ====
section
/-! DEFINITION. The command-word decoder, total on the 256 words, and the encoder (spec/30_encoding.md R71 to R75). -/

namespace Sys2Proof

/-- `OP = c[3:0]` (R71). -/
def fieldOp (c : BitVec 8) : BitVec 4 := c.extractLsb' 0 4

/-- `K = c[4]` (R71). -/
def fieldK (c : BitVec 8) : BitVec 1 := c.extractLsb' 4 1

/-- `RSV = c[7:5]` (R71). -/
def fieldRsv (c : BitVec 8) : BitVec 3 := c.extractLsb' 5 3

/-- A command that `K` does not select between: `K = 1` on it is illegal (R73, R75). -/
def withoutKind (k : BitVec 1) (i : Instr) : Except Illegal Instr :=
  if k = 0 then .ok i else .error .kindBit

/-- R72 and R75: `RSV` must be 0, `OP` selects the operation, `K` selects the kind of ENC and SEQ and is 0 elsewhere.
Which reason is named when several hold is DESIGN CHOICE (log 13, safe: no result shows it). -/
def decode (c : BitVec 8) : Except Illegal Instr :=
  if fieldRsv c ≠ 0 then .error .reservedBits
  else
    match (fieldOp c).toNat with
    | 0x0 => withoutKind (fieldK c) .nop
    | 0x1 => withoutKind (fieldK c) .crc16
    | 0x2 => .ok (if fieldK c = 0 then .encB else .encU)
    | 0x3 => withoutKind (fieldK c) .dec
    | 0x4 => .ok (if fieldK c = 0 then .seqB else .seqU)
    | 0x5 => withoutKind (fieldK c) .tx
    | 0x6 => withoutKind (fieldK c) .rx
    | 0x7 => withoutKind (fieldK c) .tsadj
    | 0x8 => withoutKind (fieldK c) .status
    | _ => .error .reservedOp

/-- `RSV ++ K ++ OP` as one word (R71). -/
def commandWord (k : BitVec 1) (op : BitVec 4) : BitVec 8 := (0 : BitVec 3) ++ k ++ op

/-- The word of each command (R72, R73). -/
def encode : Instr → BitVec 8
  | .nop => commandWord 0 0x0
  | .crc16 => commandWord 0 0x1
  | .encB => commandWord 0 0x2
  | .encU => commandWord 1 0x2
  | .dec => commandWord 0 0x3
  | .seqB => commandWord 0 0x4
  | .seqU => commandWord 1 0x4
  | .tx => commandWord 0 0x5
  | .rx => commandWord 0 0x6
  | .tsadj => commandWord 0 0x7
  | .status => commandWord 0 0x8

/-- The instruction the decoder reads from a word of `nbits` bits numbered as spec/opcode_table.json numbers them. A
command is one 8-bit word (R71), so a value of more than 8 bits is no command. -/
def decodeTableWord (nbits w : Nat) : Option Instr :=
  if w % 2 ^ nbits < 256 then
    match decode (BitVec.ofNat 8 (w % 2 ^ nbits)) with
    | .ok i => some i
    | .error _ => none
  else none

end Sys2Proof
end

