-- ==== Sys2Proof/Machine/State.lean ====
section
/-! DEFINITION. The state of FCLS: the eight registers of spec/10_state.md R20, and beside them what the spec says is NOT
state of FCLS but a step needs: the configuration (R7), the host's events still to come (R206) and the results returned so
far (R79, R206). Assumption log 1, 4, 5. There is no memory (spec/20_memory.md R50) and no pc (R27). -/

namespace Sys2Proof.Machine

/-- `ROLE`, the state of the session machine (R25). -/
inductive Role where
  | discovering
  | paired
deriving DecidableEq, Repr

/-- The register bit of `ROLE`: 0 means Discovering, 1 means Paired (R25). -/
def Role.code : Role → BitVec 1
  | .discovering => 0
  | .paired => 1

/-- `out.status` (R89). `ok` is a command that completed; the others are raised. -/
inductive Status where
  | ok
  | frameTooShort
  | checksumMismatch
  | unknownFrameType
  | illegalCommand
deriving DecidableEq, Repr

/-- The 3-bit codes of R89. Codes 5 to 7 are never returned. -/
def Status.code : Status → BitVec 3
  | .ok => 0
  | .frameTooShort => 1
  | .checksumMismatch => 2
  | .unknownFrameType => 3
  | .illegalCommand => 4

/-- `out.session` of RX (R90). -/
inductive Session where
  | none
  | notUnicast
  | notForUs
  | pairedNow
  | confirmed
  | ignoredShort
deriving DecidableEq, Repr

/-- The 3-bit codes of R90. Codes 6 and 7 are never returned. -/
def Session.code : Session → BitVec 3
  | .none => 0
  | .notUnicast => 1
  | .notForUs => 2
  | .pairedNow => 3
  | .confirmed => 4
  | .ignoredShort => 5

/-- The results of DEC, and of the decode stage of RX (R79, R108). -/
structure Decoded where
  kind    : Kind
  seq     : BitVec 16
  magic   : BitVec 32
  payload : Bytes
deriving DecidableEq, Repr

/-- The results of TX (R79, R132). -/
structure Sent where
  frame : Bytes
  dest  : Addr
  kind  : Kind
  seq   : BitVec 16
deriving DecidableEq, Repr

/-- The results of STATUS (R79, R165). -/
structure StatusView where
  role        : Role
  peerAddr    : Addr
  deviceId    : DeviceId
  clockOffset : ClockOffset
  stillBcast  : Bool
  seq0        : BitVec 16
  seq1        : BitVec 16
  magic       : BitVec 32
deriving DecidableEq, Repr

/-- The results a command defines beside `out.status` and `out.session` (R79). `nothing` stands for NOP and for every
raise: no other result is defined then (R191), so none is there to be read (log 6, safe). -/
inductive Values where
  | nothing
  /-- CRC16: `out.crc`. -/
  | crc (crc : BitVec 16)
  /-- ENC: `out.frame`. -/
  | frame (frame : Bytes)
  /-- DEC and RX: `out.kind`, `out.seq`, `out.magic`, `out.payload`. -/
  | decoded (d : Decoded)
  /-- SEQ: `out.seq`. -/
  | seq (seq : BitVec 16)
  /-- TX: `out.frame`, `out.dest`, `out.kind`, `out.seq`. -/
  | sent (x : Sent)
  /-- TSADJ: `out.t`. -/
  | time (t : BitVec 32)
  /-- STATUS: the eight registers. -/
  | view (v : StatusView)
deriving DecidableEq, Repr

/-- What one command returns to the host (R79). `session` is `some` for RX only. -/
structure Result where
  status  : Status
  session : Option Session
  values  : Values
deriving DecidableEq, Repr

/-- The registers of R20, all of them. -/
structure Registers where
  /-- `SEQ[0]`, the Broadcast counter (R22). -/
  seq0        : BitVec 16
  /-- `SEQ[1]`, the Unicast counter (R22). -/
  seq1        : BitVec 16
  /-- `MAGIC` (R24). -/
  magic       : BitVec 32
  /-- `ROLE`, 1 bit (R25). -/
  role        : Role
  /-- `PEER_ADDR` (R26). -/
  peerAddr    : Addr
  /-- `DEVICE_ID` (R28). -/
  deviceId    : DeviceId
  /-- `CLOCK_OFFSET`, read as two's complement (R29). -/
  clockOffset : ClockOffset
  /-- `STILL_BCAST`, 1 bit (R30). -/
  stillBcast  : Bool
deriving DecidableEq, Repr

/-- The registers right after a reset with this entropy (R37, R220). -/
def Registers.atReset (entropy : BitVec 32) : Registers :=
  { seq0 := 0x0000, seq1 := 0x0000, magic := entropy, role := .discovering, peerAddr := Config.bcastAddr,
    deviceId := 0x0000, clockOffset := 0x00000000, stillBcast := true }

/-- The machine and its surroundings, as plain data. -/
structure State where
  /-- The registers of R20: the whole architectural state. -/
  regs     : Registers
  /-- The configuration (R7), fixed before the first command (R223) and written by no step (R103). Not state of FCLS. -/
  cfg      : Config
  /-- What the host presents: its head is presented now, the rest later, in order (R10, R206). Not state of FCLS. -/
  inbox    : List HostEvent
  /-- The results returned so far, oldest first; no command reads them (R35). Not state of FCLS. -/
  returned : List Result
deriving DecidableEq, Repr

/-- Why the machine stops with a fault: never. FCLS has no trap mechanism, an error is a returned status, and FCLS carries
on with the next command (R190), so this type has no constructor (log 17). -/
inductive Fault where
deriving DecidableEq, Repr

/-- Why there is no step (R207). Each of them is safe: the model has fewer runs than a host might cause. -/
inductive Refusal where
  /-- An instruction that has no meaning in the model; raised by no arm of `exec` now. Safe. -/
  | notModelled (mnemonic : String)
  /-- A CRC16, DEC or RX byte string longer than `NMAX` (R207). Raised by those three. Safe. -/
  | byteStringTooLong
  /-- An ENC or TX payload whose length is not `PLEN` (R207). Raised by those three. Safe. -/
  | payloadWrongLength
  /-- A configuration that breaks R9 or gives both kinds one code (R81). Raised by `step`. Safe. -/
  | badConfiguration
deriving DecidableEq, Repr

/-- The machine just after a reset with this entropy under this configuration, with nothing presented yet (R222, R223). -/
def State.afterReset (c : Config) (entropy : BitVec 32) : State :=
  { regs := Registers.atReset entropy, cfg := c, inbox := [], returned := [] }

/-- The machine right after reset (R37): the entropy is a draw (R221, log 3) and the configuration is log 2's. -/
def State.reset : State := State.afterReset Config.default Config.startupEntropy

end Sys2Proof.Machine
end

