-- ==== Sys2Proof/WellFormed.lean ====
section
/-! DEFINITION. The checks of the interface (spec/60_exceptions.md R207): a configuration FCLS accepts and operands a command
accepts. An `Instr` has no field, so every one of them is well-formed as syntax and needs no check. -/

namespace Sys2Proof

/-- `HDR`, the 9 header bytes (R6). -/
def Config.hdr : Nat := 9

/-- `PLEN = L - HDR` (R8). -/
def Config.plen (c : Config) : Nat := c.L - Config.hdr

/-- R9: `14 <= L <= NMAX`. R81: the two kind codes differ; that a configuration with equal codes is refused like one
that breaks R9 is DEDUCED from "under the constraint that they differ" (log 8, safe). -/
def Config.wf (c : Config) : Bool :=
  14 ≤ c.L && c.L ≤ c.NMAX && c.kindBcast != c.kindUcast

/-- The lengths R78 states for the operands of `i`: at most `NMAX` for a byte string, exactly `PLEN` for a payload. -/
def Inputs.wf (c : Config) (i : Instr) (x : Inputs) : Bool :=
  match i with
  | .nop => true
  | .crc16 => x.bytes.length ≤ c.NMAX
  | .encB => x.payload.length == c.plen
  | .encU => x.payload.length == c.plen
  | .dec => x.bytes.length ≤ c.NMAX
  | .seqB => true
  | .seqU => true
  | .tx => x.payload.length == c.plen
  | .rx => x.bytes.length ≤ c.NMAX
  | .tsadj => true
  | .status => true

end Sys2Proof
end

