-- ==== Sys2Proof/Machine/Ops.lean ====
section
/-! DEFINITION. The named operations over byte strings and registers, the return of a result, `raise` (spec/60_exceptions.md
R191) and the reset event (spec/70_reset_and_hazards.md R220). -/

namespace Sys2Proof.Machine

/-! ### Byte strings (spec/20_memory.md) -/

/-- `zeros(k)` (R12). -/
def zeros (k : Nat) : Bytes := List.replicate k 0x00

/-- The little-endian unsigned value of bytes: the sum of `B[i] << (8*i)` (R51). -/
def leValue : Bytes → Nat
  | [] => 0
  | b :: bs => b.toNat + 2 ^ 8 * leValue bs

/-- The bytes `v[8i+7 : 8i]` for `i` in `0..n-1` (R52). -/
def leBytes : Nat → Nat → Bytes
  | 0, _ => []
  | n + 1, v => BitVec.ofNat 8 v :: leBytes n (v / 2 ^ 8)

/-- `MemRead(B, off, n)` (R51). Past the end of `B` it reads what is there; no rule reads there (R51, log 12). -/
def memRead (B : Bytes) (off n : Nat) : Nat := leValue ((B.drop off).take n)

/-- The bytes `bs` put into `B` from offset `off` on, every other byte and the length as before. -/
def putBytes (B : Bytes) (off : Nat) : Bytes → Bytes
  | [] => B
  | b :: bs => putBytes (B.set off b) (off + 1) bs

/-- `MemWrite(B, off, n, v)` (R52). Past the end of `B` it writes nothing; no rule writes there (log 12). -/
def memWrite (B : Bytes) (off n v : Nat) : Bytes := putBytes B off (leBytes n v)

/-! ### The sequence counter file (spec/10_state.md R22) -/

/-- `SEQ[k]`: index 0 for Broadcast, index 1 for Unicast. -/
def seqGet (k : Kind) (r : Registers) : BitVec 16 :=
  match k with
  | .broadcast => r.seq0
  | .unicast => r.seq1

/-- `SEQ[k] <- v`: the other counter is unchanged. -/
def seqSet (k : Kind) (v : BitVec 16) (r : Registers) : Registers :=
  match k with
  | .broadcast => { r with seq0 := v }
  | .unicast => { r with seq1 := v }

/-- `SEQ[k] <- SEQ[k] +_16 1`, wrapping silently (R131, R133). The frame carries the value from before (R134). -/
def seqAdvance (k : Kind) (r : Registers) : Registers := seqSet k (seqGet k r + 1) r

/-! ### Completing a command -/

/-- The command at the head of the inbox has completed with result `r`: its result goes to the host and the host's next
event, if any, is presented (R10, R79). No register changes here. -/
def answer (r : Result) (s : State) : State :=
  { s with inbox := s.inbox.tail, returned := s.returned ++ [r] }

/-- A command that completed: `out.status = OK` and its values (R79). -/
def okResult (v : Values) : Result := { status := .ok, session := none, values := v }

/-- `raise E` (R14, R191): the command ends at once with `out.status = E`, no register is written and no other result is
defined, but `out.session = NONE` for RX, which `session` says. -/
def raiseStatus (e : Status) (session : Option Session) (s : State) : Host.Outcome State Fault Refusal :=
  .next (answer { status := e, session := session, values := .nothing } s)

/-! ### Events that are no command -/

/-- The reset event with its entropy (R220): every register to its reset value, `MAGIC` to the entropy, no result. -/
def takeReset (entropy : BitVec 32) (s : State) : Host.Outcome State Fault Refusal :=
  .next { s with
    regs := { seq0 := 0x0000, seq1 := 0x0000, magic := entropy, role := .discovering, peerAddr := Config.bcastAddr,
              deviceId := 0x0000, clockOffset := 0x00000000, stillBcast := true }
    inbox := s.inbox.tail }

/-- The host presents nothing: FCLS holds its registers and does nothing (R204; log 4). -/
def idle (s : State) : Host.Outcome State Fault Refusal := .next s

/-- Whether the configuration is one FCLS can be given (R9, R81). -/
def configAccepted (s : State) : Bool := s.cfg.wf

end Sys2Proof.Machine
end

