-- ==== Sys2Proof/Machine/Crc.lean ====
section
/-! DEFINITION. The CRC-16 function, bit by bit (spec/40_frame_codec.md R100), and the checksum of a frame (R105). -/

namespace Sys2Proof.Machine

/-- `reflectN(v)`: bit `i` goes to bit `N-1-i` (R100). -/
def reflect {n : Nat} (v : BitVec n) : BitVec n := v.reverse

/-- One of the eight inner steps of R100. -/
def crcStep (poly reg : BitVec 16) : BitVec 16 :=
  if reg.getLsbD 15 then (reg <<< 1) ^^^ poly else reg <<< 1

/-- `repeat n times` (R100). -/
def crcSteps (poly : BitVec 16) : Nat → BitVec 16 → BitVec 16
  | 0, reg => reg
  | n + 1, reg => crcSteps poly n (crcStep poly reg)

/-- One byte of R100's loop: reflected if `REFIN`, xored into the high byte, then eight steps. -/
def crcByte (v : CrcVariant) (reg : BitVec 16) (b : Byte) : BitVec 16 :=
  crcSteps v.poly 8 (reg ^^^ ((if v.refin then reflect b else b).setWidth 16 <<< 8))

/-- R100's loop: the bytes enter in offset order. -/
def crcBytes (v : CrcVariant) (reg : BitVec 16) (B : Bytes) : BitVec 16 := B.foldl (crcByte v) reg

/-- What R100 does to the register after the last byte. -/
def crcOut (v : CrcVariant) (reg : BitVec 16) : BitVec 16 :=
  (if v.refout then reflect reg else reg) ^^^ v.xorout

/-- `crc16(B)` (R100). -/
def crc16 (v : CrcVariant) (B : Bytes) : BitVec 16 := crcOut v (crcBytes v v.init B)

/-- `fcs(B) = crc16( B[0..2] ++ zeros(2) ++ B[5..n-1] )` (R105). -/
def fcs (v : CrcVariant) (B : Bytes) : BitVec 16 := crc16 v (B.take 3 ++ zeros 2 ++ B.drop 5)

end Sys2Proof.Machine
end

