-- ==== Sys2Proof/Machine/Operands.lean ====
section
/-! DEFINITION. The operands a command reads (spec/30_encoding.md R78), with the interface's refusals of wrong lengths
(spec/60_exceptions.md R207), and the kind operand. -/

namespace Sys2Proof.Machine

/-- The operands presented with the command at the head of the inbox. Where no command is presented there are none, and no
command is being executed (log 10). -/
def presented (s : State) : Inputs :=
  match s.inbox with
  | .command _ x :: _ => x
  | _ => Inputs.none

/-- `in.bytes`: `0 <= len <= NMAX`, else there is no step (R78, R207). -/
def bytesOperand (s : State) : Except Refusal Bytes :=
  if (presented s).bytes.length ≤ s.cfg.NMAX then .ok (presented s).bytes else .error .byteStringTooLong

/-- `in.payload`: exactly `PLEN` bytes, else there is no step (R78, R207). -/
def payloadOperand (s : State) : Except Refusal Bytes :=
  if (presented s).payload.length = s.cfg.plen then .ok (presented s).payload else .error .payloadWrongLength

/-- The `type` byte of a kind (R81). -/
def kindByte (c : Config) : Kind → Byte
  | .broadcast => c.kindBcast
  | .unicast => c.kindUcast

/-- The kind a `type` byte encodes, if any (R82, R108). -/
def kindOfByte (c : Config) (b : Byte) : Option Kind :=
  if b = c.kindBcast then some .broadcast
  else if b = c.kindUcast then some .unicast
  else none

end Sys2Proof.Machine
end

