-- ==== Sys2Proof/Machine/Frame.lean ====
section
/-! DEFINITION. The wire frame: type 0, sequence 1..2, crc 3..4, magic 5..8, payload 9.. (spec/30_encoding.md R80,
spec/20_memory.md R56). The serializer of R106 and the deserializer of R108. -/

namespace Sys2Proof.Machine

/-- The frame of R106 with its `crc` field still zero. -/
def frameBody (c : Config) (k : Kind) (seq : BitVec 16) (magic : BitVec 32) (payload : Bytes) : Bytes :=
  let B := zeros c.L
  let B := B.set 0 (kindByte c k)
  let B := memWrite B 1 2 seq.toNat
  let B := memWrite B 3 2 0x0000
  let B := memWrite B 5 4 magic.toNat
  putBytes B 9 payload

/-- `out.frame` of R106: the body with its CRC written into the `crc` field. -/
def buildFrame (c : Config) (k : Kind) (seq : BitVec 16) (magic : BitVec 32) (payload : Bytes) : Bytes :=
  let B := frameBody c k seq magic payload
  memWrite B 3 2 (crc16 c.crc B).toNat

/-- The working copy `W` of R108: `B` with bytes 3 and 4 zeroed. -/
def zeroCrcField (B : Bytes) : Bytes := (B.set 3 0x00).set 4 0x00

/-- The `crc` field as stored (R84). -/
def storedCrc (B : Bytes) : BitVec 16 := BitVec.ofNat 16 (memRead B 3 2)

/-- R108: the length check, the CRC check and the type check, in that order (R109), then the fields. On an error no
register is written and nothing else is returned (R191). -/
def decodeFrame (c : Config) (B : Bytes) : Except Status Decoded :=
  if B.length < 9 then .error .frameTooShort
  else if crc16 c.crc (zeroCrcField B) ≠ storedCrc B then .error .checksumMismatch
  else
    match kindOfByte c (BitVec.ofNat 8 (memRead B 0 1)) with
    | none => .error .unknownFrameType
    | some k =>
      .ok { kind := k, seq := BitVec.ofNat 16 (memRead B 1 2), magic := BitVec.ofNat 32 (memRead B 5 4),
            payload := B.drop 9 }

end Sys2Proof.Machine
end

