-- ==== Sys2Proof/Machine/Codec.lean ====
section
/-! DEFINITION. The codec commands CRC16, ENC and DEC (spec/40_frame_codec.md). They write no register. -/

namespace Sys2Proof.Machine

/-- ENC for either kind (R106): it reads neither `SEQ` nor `MAGIC`, the sequence and the magic are operands. -/
def encodeCommand (k : Kind) (s : State) : Host.Outcome State Fault Refusal :=
  match payloadOperand s with
  | .error r => .refused r
  | .ok p => .next (answer (okResult (.frame (buildFrame s.cfg k (presented s).seq (presented s).magic p))) s)

/-- CRC16 (R104). -/
def execCrc16 (s : State) : Host.Outcome State Fault Refusal :=
  match bytesOperand s with
  | .error r => .refused r
  | .ok B => .next (answer (okResult (.crc (crc16 s.cfg.crc B))) s)

/-- ENC.B (R106 with K = 0). -/
def execEncB (s : State) : Host.Outcome State Fault Refusal := encodeCommand .broadcast s

/-- ENC.U (R106 with K = 1). -/
def execEncU (s : State) : Host.Outcome State Fault Refusal := encodeCommand .unicast s

/-- DEC (R108). -/
def execDec (s : State) : Host.Outcome State Fault Refusal :=
  match bytesOperand s with
  | .error r => .refused r
  | .ok B =>
    match decodeFrame s.cfg B with
    | .error e => raiseStatus e none s
    | .ok d => .next (answer (okResult (.decoded d)) s)

end Sys2Proof.Machine
end

