-- ==== Sys2Proof/Machine/Control.lean ====
section
/-! DEFINITION. NOP and the illegal command words (spec/43_control.md). -/

namespace Sys2Proof.Machine

/-- NOP (R180). -/
def execNop (s : State) : Host.Outcome State Fault Refusal := .next (answer (okResult .nothing) s)

/-- An illegal command word (R181): `IllegalCommand`, before any operand is read, whatever operands are presented. -/
def rejectWord (s : State) : Host.Outcome State Fault Refusal := raiseStatus .illegalCommand none s

end Sys2Proof.Machine
end

