-- ==== Sys2Proof/Machine/Flags.lean ====
section
/-! DEFINITION. FCLS has no condition codes (spec/10_state.md R35): the flags that are state are `ROLE` and `STILL_BCAST`.
What is computed from them, and the two status outputs of R33. -/

namespace Sys2Proof.Machine

/-- `k <- ROLE`: 0 Discovering gives Broadcast, 1 Paired gives Unicast (R132). -/
def roleKind : Role → Kind
  | .discovering => .broadcast
  | .paired => .unicast

/-- The status output `paired = ROLE`, driven at all times (R33). -/
def pairedOut (s : State) : BitVec 1 := s.regs.role.code

/-- The status output `peer_address = PEER_ADDR`, driven at all times (R33). -/
def peerAddressOut (s : State) : Addr := s.regs.peerAddr

end Sys2Proof.Machine
end

