-- ==== Sys2Proof/Machine/Sequence.lean ====
section
/-! DEFINITION. The commands that allocate a sequence number, SEQ and TX (spec/41_sequence_counters.md). -/

namespace Sys2Proof.Machine

/-- SEQ for either kind (R131): one atomic read and increment, returning the value from before it. -/
def sequenceCommand (k : Kind) (s : State) : Host.Outcome State Fault Refusal :=
  .next (answer (okResult (.seq (seqGet k s.regs))) { s with regs := seqAdvance k s.regs })

/-- SEQ.B (R131 with K = 0). -/
def execSeqB (s : State) : Host.Outcome State Fault Refusal := sequenceCommand .broadcast s

/-- SEQ.U (R131 with K = 1). -/
def execSeqU (s : State) : Host.Outcome State Fault Refusal := sequenceCommand .unicast s

/-- TX (R132): the kind is the role's, the sequence number is allocated, the frame is the one of R106 with `MAGIC`, the
destination is `PEER_ADDR`. -/
def execTx (s : State) : Host.Outcome State Fault Refusal :=
  match payloadOperand s with
  | .error r => .refused r
  | .ok p =>
    let k := roleKind s.regs.role
    let n := seqGet k s.regs
    let x : Sent := { frame := buildFrame s.cfg k n s.regs.magic p, dest := s.regs.peerAddr, kind := k, seq := n }
    .next (answer (okResult (.sent x)) { s with regs := seqAdvance k s.regs })

end Sys2Proof.Machine
end

