-- ==== Sys2Proof/Machine/Session.lean ====
section
/-! DEFINITION. The link session: RX, TSADJ and STATUS (spec/42_link_session.md). -/

namespace Sys2Proof.Machine

/-- `out.session` of a frame that decoded, in R151's order of tests. -/
def sessionOutcome (role : Role) (destMatch : Bool) (d : Decoded) : Session :=
  if d.kind = .broadcast then .notUnicast
  else if destMatch = false then .notForUs
  else if role = .paired then .confirmed
  else if d.payload.length < 5 then .ignoredShort
  else .pairedNow

/-- The pairing action (R155): `p[0]` less 1 modulo 2^`DEVID_W` (R156), the peer timestamp of payload bytes 1 to 4 (R154) less
the local time modulo 2^`OFS_W` (R157). `SEQ` and `MAGIC` are not written. -/
def pairRegisters (src : Addr) (localTime : BitVec 32) (p : Bytes) (r : Registers) : Registers :=
  { r with
    peerAddr := src
    deviceId := BitVec.ofNat Config.devIdW (memRead p 0 1) - 1
    clockOffset := BitVec.ofNat Config.ofsW (memRead p 1 4) - localTime
    role := .paired
    stillBcast := false }

/-- The registers after the session stage: only `PAIRED_NOW` writes any (R151, R158, R160, R162). -/
def sessionRegisters (o : Session) (x : Inputs) (p : Bytes) (r : Registers) : Registers :=
  match o with
  | .pairedNow => pairRegisters x.src x.localTime p r
  | .none => r
  | .notUnicast => r
  | .notForUs => r
  | .confirmed => r
  | .ignoredShort => r

/-- RX (R151): the decode stage of DEC (R152), then the session stage, which writes on `PAIRED_NOW` only (R153). -/
def execRx (s : State) : Host.Outcome State Fault Refusal :=
  match bytesOperand s with
  | .error r => .refused r
  | .ok B =>
    match decodeFrame s.cfg B with
    | .error e => raiseStatus e (some .none) s
    | .ok d =>
      let o := sessionOutcome s.regs.role (presented s).destMatch d
      .next (answer { status := .ok, session := some o, values := .decoded d }
        { s with regs := sessionRegisters o (presented s) d.payload s.regs })

/-- TSADJ (R164): `in.t +_32 CLOCK_OFFSET`. -/
def execTsadj (s : State) : Host.Outcome State Fault Refusal :=
  .next (answer (okResult (.time ((presented s).t + s.regs.clockOffset))) s)

/-- Every register, under the names of STATUS's results (R165). -/
def statusView (r : Registers) : StatusView :=
  { role := r.role, peerAddr := r.peerAddr, deviceId := r.deviceId, clockOffset := r.clockOffset,
    stillBcast := r.stillBcast, seq0 := seqGet .broadcast r, seq1 := seqGet .unicast r, magic := r.magic }

/-- STATUS (R165). -/
def execStatus (s : State) : Host.Outcome State Fault Refusal :=
  .next (answer (okResult (.view (statusView s.regs))) s)

end Sys2Proof.Machine
end

