-- ==== Sys2Proof/Machine/Dispatch.lean ====
section
/-! DEFINITION. One arm per command of spec/opcode_table.json. -/

namespace Sys2Proof.Machine

def exec (i : Instr) (s : State) : Host.Outcome State Fault Refusal :=
  match i with
  | .nop => Sys2Proof.Machine.execNop s
  | .crc16 => Sys2Proof.Machine.execCrc16 s
  | .encB => Sys2Proof.Machine.execEncB s
  | .encU => Sys2Proof.Machine.execEncU s
  | .dec => Sys2Proof.Machine.execDec s
  | .seqB => Sys2Proof.Machine.execSeqB s
  | .seqU => Sys2Proof.Machine.execSeqU s
  | .tx => Sys2Proof.Machine.execTx s
  | .rx => Sys2Proof.Machine.execRx s
  | .tsadj => Sys2Proof.Machine.execTsadj s
  | .status => Sys2Proof.Machine.execStatus s

end Sys2Proof.Machine
end

