-- ==== Sys2Proof/Machine/Step.lean ====
section
/-! DEFINITION. One step: the host's next event. -/

namespace Sys2Proof.Machine

/-- One step of FCLS (R10): nothing presented, a reset (R220), or one command word, decoded and executed to completion,
or rejected when it is illegal (R181). Under a configuration that is refused there is no step (R9). -/
def step (s : State) : Host.Outcome State Fault Refusal :=
  if configAccepted s then
    match s.inbox with
    | [] => idle s
    | .reset entropy :: _ => takeReset entropy s
    | .command w _ :: _ =>
      match Sys2Proof.decode w with
      | .ok i => exec i s
      | .error _ => rejectWord s
  else .refused .badConfiguration

/-- `s` with the command word `w` of `nbits` bits presented next, before the events the inbox already holds. Its operands
are none, but for a payload of `PLEN` zero bytes, which ENC and TX need to have a step (R207; log 11). -/
def State.withFetchWord (s : State) (nbits w : Nat) : State :=
  { s with
    inbox := .command (BitVec.ofNat 8 (w % 2 ^ nbits)) { Inputs.none with payload := zeros s.cfg.plen } :: s.inbox }

end Sys2Proof.Machine
end

