-- ==== Sys2Proof/Safety.lean ====
section
/-! DEFINITION. What the claims speak of: the session invariant of spec/10_state.md R31, runs without a reset, the sequence
numbers a run allocates, the wire layout written out byte by byte, the table forms of the CRC, and bit errors. The machine
uses none of these. -/

namespace Sys2Proof.Machine

/-! ### Little-endian values, byte by byte (spec/20_memory.md R53) -/

/-- The 16-bit little-endian value of bytes `i` and `i + 1` of `B` (R53). -/
def half (B : Bytes) (i : Nat) : BitVec 16 := B.getD (i + 1) 0 ++ B.getD i 0

/-- The 32-bit little-endian value of bytes `i` to `i + 3` of `B` (R53). -/
def word (B : Bytes) (i : Nat) : BitVec 32 :=
  ((B.getD (i + 3) 0 ++ B.getD (i + 2) 0 : BitVec 16) ++ (B.getD (i + 1) 0 ++ B.getD i 0 : BitVec 16) : BitVec 32)

/-! ### How a command ends -/

/-- The state after the command presented in `s` has ended with registers `regs` and result `r`: the registers are `regs`,
the result went to the host, the host's next event is presented, and nothing else changed. -/
def completed (s : State) (regs : Registers) (r : Result) : State :=
  { regs := regs, cfg := s.cfg, inbox := s.inbox.tail, returned := s.returned ++ [r] }

/-- A result with `out.status = OK` and these values (R79). -/
def okWith (v : Values) : Result := { status := .ok, session := none, values := v }

/-- A result of RX with `out.status = OK` (R79). -/
def rxWith (o : Session) (d : Decoded) : Result := { status := .ok, session := some o, values := .decoded d }

/-- What a raise of DEC or of an illegal word returns: the status alone (R191). -/
def raised (e : Status) : Result := { status := e, session := none, values := .nothing }

/-- What a raise of RX returns: the status and `out.session = NONE` (R191). -/
def rxRaised (e : Status) : Result := { status := e, session := some .none, values := .nothing }

/-- The registers the pairing action leaves (R155, R156, R157) from payload `p`, sender `src` and local time `t0`. -/
def pairedRegisters (r : Registers) (src : Addr) (t0 : BitVec 32) (p : Bytes) : Registers :=
  { seq0 := r.seq0, seq1 := r.seq1, magic := r.magic, role := .paired, peerAddr := src,
    deviceId := (p.getD 0 0).setWidth 16 - 1, clockOffset := word p 1 - t0, stillBcast := false }

/-! ### Invariants and runs -/

/-- The two clauses of R31 about one state: `STILL_BCAST = 1` exactly when Discovering, and the session registers hold
their reset values while Discovering. -/
abbrev SessionInv (r : Registers) : Prop :=
  (r.stillBcast = true ↔ r.role = .discovering) ∧
  (r.role = .discovering → r.peerAddr = 0xFFFFFFFFFFFF ∧ r.clockOffset = 0 ∧ r.deviceId = 0)

/-- A reset event, and not a command. -/
def isReset : HostEvent → Bool
  | .reset _ => true
  | .command _ _ => false

/-- None of the host's first `n` events is a reset. -/
abbrev NoReset (n : Nat) (s : State) : Prop := ∀ e ∈ s.inbox.take n, isReset e = false

/-- `n` steps of the machine, each a next state (R206). -/
abbrev Runs (n : Nat) (s t : State) : Prop := Host.Core.run Sys2Proof.core n s = .next t

/-- The results returned between `s` and a later state `t`. -/
def resultsSince (s t : State) : List Result := t.returned.drop s.returned.length

/-- A result of RX that says the pairing action ran. -/
def isPairing (r : Result) : Bool := r.session == some .pairedNow

/-! ### Sequence numbers (spec/41_sequence_counters.md R136) -/

/-- The command presented in `s` allocates kind `k`: SEQ with `K = k`, or TX while `ROLE = k`. -/
def allocates (k : Kind) (s : State) : Bool :=
  match s.inbox with
  | .command w _ :: _ =>
    match k with
    | .broadcast => w == 0x04 || (w == 0x05 && s.regs.role == .discovering)
    | .unicast => w == 0x14 || (w == 0x05 && s.regs.role == .paired)
  | _ => false

/-- `out.seq` of a result that has one. -/
def outSeq (r : Result) : Option (BitVec 16) :=
  match r.values with
  | .seq v => some v
  | .sent x => some x.seq
  | .decoded d => some d.seq
  | _ => none

/-- The values `out.seq` that the commands allocating kind `k` return in the first `n` steps from `s`, in order. -/
def allocatedSeqs (k : Kind) : Nat → State → List (BitVec 16)
  | 0, _ => []
  | n + 1, s =>
    match step s with
    | .next t =>
      (if allocates k s then (resultsSince s t).filterMap outSeq else []) ++ allocatedSeqs k n t
    | _ => []

/-! ### The wire format, byte by byte (spec/30_encoding.md R71, R75, R80) -/

/-- R75: `OP >= 0x9`, or `RSV != 0`, or `K = 1` with `OP` not in 0x2, 0x4. -/
abbrev IllegalWord (w : BitVec 8) : Prop :=
  9 ≤ w.toNat % 16 ∨ w.toNat / 32 ≠ 0 ∨ (w.toNat / 16 % 2 = 1 ∧ w.toNat % 16 ≠ 2 ∧ w.toNat % 16 ≠ 4)

/-- R80's layout with these field values. -/
def wireFrame (kind : Byte) (seq crc : BitVec 16) (magic : BitVec 32) (payload : Bytes) : Bytes :=
  [kind,
   seq.extractLsb' 0 8, seq.extractLsb' 8 8,
   crc.extractLsb' 0 8, crc.extractLsb' 8 8,
   magic.extractLsb' 0 8, magic.extractLsb' 8 8, magic.extractLsb' 16 8, magic.extractLsb' 24 8] ++ payload

/-- The frame R106 builds: R80's layout, its `crc` field the CRC of the same frame with that field zero. -/
def sealedFrame (c : Config) (kind : Byte) (seq : BitVec 16) (magic : BitVec 32) (payload : Bytes) : Bytes :=
  wireFrame kind seq (crc16 c.crc (wireFrame kind seq 0 magic payload)) magic payload

/-- The checksum of R105, its coverage written out: bytes 3 and 4 are read as zero. -/
def checksum (c : Config) (B : Bytes) : BitVec 16 := crc16 c.crc (B.take 3 ++ [0, 0] ++ B.drop 5)

/-- DEC's fields of a frame of this kind (R108). -/
def fieldsOf (k : Kind) (B : Bytes) : Decoded :=
  { kind := k, seq := half B 1, magic := word B 5, payload := B.drop 9 }

/-- `B` with bit `bit` of byte `i` flipped (R114). -/
def flipBit (B : Bytes) (i : Nat) (bit : Fin 8) : Bytes := B.set i (B.getD i 0 ^^^ BitVec.twoPow 8 bit.val)

/-! ### The table-driven forms of the CRC (spec/40_frame_codec.md R102) -/

/-- `T[i]` of `CCITT_FALSE`: R100's eight steps on `i << 8`. -/
def tableCcitt (i : Byte) : BitVec 16 := crcSteps 0x1021 8 (i.setWidth 16 <<< 8)

/-- The table form of `CCITT_FALSE`. -/
def tableCrcCcitt (B : Bytes) : BitVec 16 :=
  B.foldl (fun (reg : BitVec 16) (b : Byte) => (reg <<< 8) ^^^ tableCcitt ((reg >>> 8).setWidth 8 ^^^ b)) 0xFFFF

/-- One right-shifting step with 0x8408. -/
def rightStep (c : BitVec 16) : BitVec 16 := if c.getLsbD 0 then (c >>> 1) ^^^ 0x8408 else c >>> 1

/-- `T'[i]` of `ESP_ROM_LE`: eight right-shifting steps from `i`. -/
def tableEsp (i : Byte) : BitVec 16 :=
  rightStep (rightStep (rightStep (rightStep (rightStep (rightStep (rightStep (rightStep (i.setWidth 16))))))))

/-- The table form of `ESP_ROM_LE`. -/
def tableCrcEsp (B : Bytes) : BitVec 16 :=
  B.foldl (fun (reg : BitVec 16) (b : Byte) => tableEsp ((reg ^^^ b.setWidth 16).setWidth 8) ^^^ (reg >>> 8)) 0x0000
    ^^^ 0xFFFF

end Sys2Proof.Machine
end

