-- ==== Sys2Proof/Certificates/Slice0/Obligations.lean ====
section
/-! DEFINITION. The statements about FCLS, from the numbered rules of spec/. They speak of every state, so of every
configuration a state can carry; nothing rests on a value of assumption log 2 or 3. `completed s regs r` (Safety.lean) gives
the whole next state: what it does not name is unchanged. FCLS has no memory (R50), so no frame speaks of one. -/

open Sys2Proof Sys2Proof.Machine

/-! ### Command words -/

/-- R72: the operation each word selects, and the reserved operations. -/
def Obligations.CommandWordsOfTheTable : Prop :=
  decode 0x00 = .ok .nop ∧ decode 0x01 = .ok .crc16 ∧ decode 0x02 = .ok .encB ∧ decode 0x12 = .ok .encU ∧
  decode 0x03 = .ok .dec ∧ decode 0x04 = .ok .seqB ∧ decode 0x14 = .ok .seqU ∧ decode 0x05 = .ok .tx ∧
  decode 0x06 = .ok .rx ∧ decode 0x07 = .ok .tsadj ∧ decode 0x08 = .ok .status ∧
  ∀ w : BitVec 8, 9 ≤ w.toNat % 16 → ∃ e, decode w = .error e

/-- R75, R181: which words are illegal, that there are 11 legal ones and 245 others, and that an illegal one raises
`IllegalCommand` and no more, whatever operands accompany it, wrong lengths included. -/
def Obligations.LegalWordsAndIllegalWords : Prop :=
  (∀ w : BitVec 8, (∃ e, decode w = .error e) ↔ IllegalWord w) ∧
  (∀ w : BitVec 8, (∃ i, decode w = .ok i) ↔
    w ∈ [0x00, 0x01, 0x02, 0x12, 0x03, 0x04, 0x14, 0x05, 0x06, 0x07, (0x08 : BitVec 8)]) ∧
  ((List.range 256).filter fun n => decide (IllegalWord (BitVec.ofNat 8 n))).length = 245 ∧
  ∀ (s : State) (w : BitVec 8) (x : Inputs) (rest : List HostEvent),
    s.cfg.wf = true → s.inbox = .command w x :: rest → IllegalWord w →
    step s = .next (completed s s.regs (raised .illegalCommand))

/-- R71, R72, R73: a word decodes to a command exactly when it is that command's word. -/
def Obligations.DecodeInvertsEncode : Prop :=
  ∀ (w : BitVec 8) (i : Instr), decode w = .ok i ↔ encode i = w

/-! ### Steps -/

/-- A step with a legal command word presented is `exec` of its command on the same state, with the operands beside it. -/
def Obligations.StepRunsTheDecodedCommand : Prop :=
  ∀ (s : State) (w : BitVec 8) (x : Inputs) (rest : List HostEvent) (i : Instr),
    s.cfg.wf = true → s.inbox = .command w x :: rest → decode w = .ok i → step s = exec i s ∧ presented s = x

/-- R9: a configuration with `L < 14` or `L > NMAX` has no step. -/
def Obligations.BadFrameLengthHasNoStep : Prop :=
  ∀ s : State, s.cfg.L < 14 ∨ s.cfg.NMAX < s.cfg.L → step s = .refused .badConfiguration

/-- The model's choice of log entry 8: equal kind codes are refused like a bad frame length. -/
def Obligations.EqualKindCodesHaveNoStep : Prop :=
  ∀ s : State, s.cfg.kindBcast = s.cfg.kindUcast → step s = .refused .badConfiguration

/-- R204 through log entry 4: with nothing presented FCLS holds everything. -/
def Obligations.NothingPresentedChangesNothing : Prop :=
  ∀ s : State, s.cfg.wf = true → s.inbox = [] → step s = .next s

/-- R220, R37: the reset event sets all eight registers, from any state, and returns no result. -/
def Obligations.ResetEventSetsEveryRegister : Prop :=
  ∀ (s : State) (entropy : BitVec 32) (rest : List HostEvent),
    s.cfg.wf = true → s.inbox = .reset entropy :: rest →
    step s = .next
      { regs := { seq0 := 0x0000, seq1 := 0x0000, magic := entropy, role := .discovering, peerAddr := 0xFFFFFFFFFFFF,
                  deviceId := 0x0000, clockOffset := 0x00000000, stillBcast := true }
        cfg := s.cfg, inbox := rest, returned := s.returned }

/-- R222, R37: the state a run starts from, for every entropy and for the free value of log 3. -/
def Obligations.RunStartsJustAfterReset : Prop :=
  (∀ (c : Config) (entropy : BitVec 32),
    (State.afterReset c entropy).regs =
      { seq0 := 0x0000, seq1 := 0x0000, magic := entropy, role := .discovering, peerAddr := 0xFFFFFFFFFFFF,
        deviceId := 0x0000, clockOffset := 0x00000000, stillBcast := true }) ∧
  State.reset.regs = (State.afterReset State.reset.cfg Config.startupEntropy).regs

/-- The next states of a step: one event consumed, the configuration kept, and one result for a command, none else. -/
def Obligations.StepConsumesOneEvent : Prop :=
  ∀ s t : State, step s = .next t →
    t.inbox = s.inbox.tail ∧ t.cfg = s.cfg ∧
    match s.inbox with
    | .command _ _ :: _ => ∃ r, t.returned = s.returned ++ [r]
    | _ => t.returned = s.returned

/-- R103: no run of any length changes the configuration, the CRC variant included. -/
def Obligations.ConfigurationIsNeverWritten : Prop :=
  ∀ (n : Nat) (s t : State), Runs n s t → t.cfg = s.cfg

/-- R207: with an accepted configuration, a step is refused exactly when a legal command's operands have a wrong length. -/
def Obligations.RefusedExactlyOnWrongLengths : Prop :=
  ∀ s : State, s.cfg.wf = true →
    ((∀ t, step s ≠ .next t) ↔
      ∃ w x rest i, s.inbox = .command w x :: rest ∧ decode w = .ok i ∧
        ((i ∈ [.crc16, .dec, .rx] ∧ s.cfg.NMAX < x.bytes.length) ∨
         (i ∈ [.encB, .encU, .tx] ∧ x.payload.length ≠ s.cfg.L - 9)))

/-- R35: results are not held: no step depends on what was returned before. -/
def Obligations.ResultsAreNotReadBack : Prop :=
  ∀ (s : State) (old : List Result),
    (∀ t, step s = .next t →
      ∃ new, t.returned = s.returned ++ new ∧ step { s with returned := old } = .next { t with returned := old ++ new }) ∧
    (∀ r, step s = .refused r → step { s with returned := old } = .refused r)

/-- R191: a command that raises writes no register and defines no other result; RX also returns `NONE`. -/
def Obligations.RaiseWritesNoRegister : Prop :=
  ∀ (s t : State) (w : BitVec 8) (x : Inputs) (rest : List HostEvent) (r : Result),
    s.inbox = .command w x :: rest → step s = .next t → t.returned = s.returned ++ [r] → r.status ≠ .ok →
    t.regs = s.regs ∧ r.values = .nothing ∧
    r.session = (if w = 0x06 then some .none else none)

/-- R24: only a reset event writes `MAGIC`. -/
def Obligations.OnlyResetWritesMagic : Prop :=
  ∀ s t : State, step s = .next t → (∀ e rest, s.inbox ≠ .reset e :: rest) → t.regs.magic = s.regs.magic

/-! ### NOP -/

/-- R180: NOP completes in any state with no effect and the status alone, and is the only such command. -/
def Obligations.NopReturnsOkOnly : Prop :=
  decode 0x00 = .ok .nop ∧
  (∀ s : State, exec .nop s = .next (completed s s.regs (okWith .nothing))) ∧
  ∀ (i : Instr) (s : State), exec i s = .next (completed s s.regs (okWith .nothing)) → i = .nop

/-! ### CRC16 -/

/-- R104: the CRC of the presented bytes, up to `NMAX` of them; the empty string and the zero strings. -/
def Obligations.Crc16ReturnsTheCrc : Prop :=
  decode 0x01 = .ok .crc16 ∧
  (∀ s : State, (presented s).bytes.length ≤ s.cfg.NMAX →
    exec .crc16 s = .next (completed s s.regs (okWith (.crc (crc16 s.cfg.crc (presented s).bytes))))) ∧
  (∀ s : State, s.cfg.NMAX < (presented s).bytes.length → exec .crc16 s = .refused .byteStringTooLong) ∧
  (∀ v : CrcVariant, crc16 v [] = (if v.refout then v.init.reverse else v.init) ^^^ v.xorout) ∧
  crc16 CrcVariant.ccittFalse [] = 0xFFFF ∧
  (∀ k, crc16 CrcVariant.espRomLe (List.replicate k 0x00) = 0xFFFF)

/-- R101: the two presets and their check values. -/
def Obligations.PresetCheckValues : Prop :=
  CrcVariant.ccittFalse = { poly := 0x1021, init := 0xFFFF, refin := false, refout := false, xorout := 0x0000 } ∧
  CrcVariant.espRomLe = { poly := 0x1021, init := 0x0000, refin := true, refout := true, xorout := 0xFFFF } ∧
  crc16 CrcVariant.ccittFalse [0x31, 0x32, 0x33, 0x34, 0x35, 0x36, 0x37, 0x38, 0x39] = 0x29B1 ∧
  crc16 CrcVariant.espRomLe [0x31, 0x32, 0x33, 0x34, 0x35, 0x36, 0x37, 0x38, 0x39] = 0xDE76

/-- R102: both table forms compute the bitwise CRC, for every byte string. -/
def Obligations.TableFormsEqualTheBitwiseCrc : Prop :=
  (∀ B : Bytes, tableCrcCcitt B = crc16 CrcVariant.ccittFalse B) ∧
  (∀ B : Bytes, tableCrcEsp B = crc16 CrcVariant.espRomLe B)

/-- R115: under `ESP_ROM_LE` leading zero bytes do not change the CRC; under `CCITT_FALSE` they do. -/
def Obligations.LeadingZerosUnderEspRomLe : Prop :=
  (∀ (k : Nat) (X : Bytes),
    crc16 CrcVariant.espRomLe (List.replicate k 0x00 ++ X) = crc16 CrcVariant.espRomLe X) ∧
  (∀ k : Nat, crc16 CrcVariant.espRomLe (List.replicate k 0x00) = 0xFFFF) ∧
  crc16 CrcVariant.ccittFalse [0x00] = 0xE1F0

/-! ### Byte strings -/

/-- R51: the little-endian value of the bytes read. -/
def Obligations.MemReadIsTheLittleEndianSum : Prop :=
  ∀ (B : Bytes) (off n : Nat), off + n ≤ B.length →
    memRead B off n = ∑ i ∈ Finset.range n, (B.getD (off + i) 0).toNat * 2 ^ (8 * i)

/-- R52: the bytes of the value, lowest first, and no other byte. -/
def Obligations.MemWriteSetsItsBytesOnly : Prop :=
  ∀ (B : Bytes) (off n v i : Nat), off + n ≤ B.length → i < B.length →
    (memWrite B off n v).length = B.length ∧
    (memWrite B off n v).getD i 0 =
      if off ≤ i ∧ i < off + n then BitVec.ofNat 8 (v >>> (8 * (i - off))) else B.getD i 0

/-- R51, R52: a read after a write to the same place gives the value, reduced to its width. -/
def Obligations.ReadAfterWriteReturnsTheValue : Prop :=
  ∀ (B : Bytes) (off n v : Nat), off + n ≤ B.length → memRead (memWrite B off n v) off n = v % 2 ^ (8 * n)

/-! ### ENC and DEC -/

/-- R106, R107, R80: ENC returns R80's layout of its operands with `L` bytes and the CRC of R105, writes no register, and
has no step for a payload of another length. -/
def Obligations.EncReturnsTheSealedFrame : Prop :=
  decode 0x02 = .ok .encB ∧ decode 0x12 = .ok .encU ∧
  (∀ s : State, s.cfg.wf = true → (presented s).payload.length = s.cfg.L - 9 →
    exec .encB s = .next (completed s s.regs
      (okWith (.frame (sealedFrame s.cfg s.cfg.kindBcast (presented s).seq (presented s).magic (presented s).payload)))) ∧
    exec .encU s = .next (completed s s.regs
      (okWith (.frame (sealedFrame s.cfg s.cfg.kindUcast (presented s).seq (presented s).magic (presented s).payload)))) ∧
    ∀ kind, (sealedFrame s.cfg kind (presented s).seq (presented s).magic (presented s).payload).length = s.cfg.L) ∧
  (∀ s : State, (presented s).payload.length ≠ s.cfg.L - 9 →
    exec .encB s = .refused .payloadWrongLength ∧ exec .encU s = .refused .payloadWrongLength)

/-- R106's corner case: the frame ENC returns holds its own checksum in bytes 3 and 4. -/
def Obligations.EncodedFrameCarriesItsChecksum : Prop :=
  ∀ (s t : State) (i : Instr) (F : Bytes), i ∈ [.encB, .encU] → s.cfg.wf = true →
    exec i s = .next t → t.returned = s.returned ++ [okWith (.frame F)] →
    F.length = s.cfg.L ∧ half F 3 = checksum s.cfg F

/-- R108, R109: DEC reports the first failing check of length, CRC and type, or the fields; it writes no register. -/
def Obligations.DecReportsTheFirstFailingCheck : Prop :=
  decode 0x03 = .ok .dec ∧
  (∀ s : State, s.cfg.NMAX < (presented s).bytes.length → exec .dec s = .refused .byteStringTooLong) ∧
  ∀ (s : State) (B : Bytes), (presented s).bytes = B → B.length ≤ s.cfg.NMAX →
    exec .dec s = .next (completed s s.regs
      (if B.length < 9 then raised .frameTooShort
       else if checksum s.cfg B ≠ half B 3 then raised .checksumMismatch
       else if B.getD 0 0 = s.cfg.kindBcast then okWith (.decoded (fieldsOf .broadcast B))
       else if B.getD 0 0 = s.cfg.kindUcast then okWith (.decoded (fieldsOf .unicast B))
       else raised .unknownFrameType))

/-- R113: DEC of the frame ENC returns gives back kind, sequence, magic and payload, for every CRC variant. -/
def Obligations.DecodeOfEncodeIsIdentity : Prop :=
  ∀ (i : Instr) (k : Kind), (i, k) ∈ [(Instr.encB, Kind.broadcast), (Instr.encU, Kind.unicast)] →
  ∀ s : State, s.cfg.wf = true → (presented s).payload.length = s.cfg.L - 9 →
    ∃ F, exec i s = .next (completed s s.regs (okWith (.frame F))) ∧
      ∀ s' : State, s'.cfg = s.cfg → (presented s').bytes = F →
        exec .dec s' = .next (completed s' s'.regs (okWith (.decoded
          { kind := k, seq := (presented s).seq, magic := (presented s).magic, payload := (presented s).payload })))

/-- The other direction of R113, from R106 and R108: ENC of the fields DEC returns from an `L`-byte frame builds that frame. -/
def Obligations.EncodeOfDecodeIsIdentity : Prop :=
  ∀ (s s' : State) (d : Decoded), s.cfg.wf = true → (presented s).bytes.length = s.cfg.L →
    exec .dec s = .next (completed s s.regs (okWith (.decoded d))) →
    s'.cfg = s.cfg → (presented s').seq = d.seq → (presented s').magic = d.magic → (presented s').payload = d.payload →
    exec (match d.kind with | .broadcast => .encB | .unicast => .encU) s' =
      .next (completed s' s'.regs (okWith (.frame (presented s).bytes)))

/-- R114: any single-bit flip of a frame DEC accepts gives `ChecksumMismatch`, under either preset. -/
def Obligations.SingleBitErrorIsDetected : Prop :=
  ∀ (s s' : State) (d : Decoded) (i : Nat) (bit : Fin 8),
    s.cfg.crc ∈ [CrcVariant.ccittFalse, CrcVariant.espRomLe] → s'.cfg = s.cfg →
    exec .dec s = .next (completed s s.regs (okWith (.decoded d))) →
    i < (presented s).bytes.length → (presented s').bytes = flipBit (presented s).bytes i bit →
    exec .dec s' = .next (completed s' s'.regs (raised .checksumMismatch))

/-- R59: a command of the codec gives the same result when it is repeated with the same inputs. -/
def Obligations.CodecCommandsAreRepeatable : Prop :=
  ∀ (i : Instr) (s t s' : State) (r : Result), i ∈ [.crc16, .encB, .encU, .dec] →
    exec i s = .next t → t.returned = s.returned ++ [r] →
    s'.regs = t.regs → s'.cfg = t.cfg → presented s' = presented s →
    exec i s' = .next (completed s' s'.regs r)

/-- R34's rows without a write: NOP, CRC16, ENC, DEC, TSADJ and STATUS change no register. -/
def Obligations.ReadOnlyCommandsFrame : Prop :=
  ∀ (i : Instr) (s t : State), i ∈ [.nop, .crc16, .encB, .encU, .dec, .tsadj, .status] →
    exec i s = .next t → ∃ r, t = completed s s.regs r

/-! ### SEQ and TX -/

/-- R131, R133: SEQ returns the counter from before the increment, which wraps, and changes nothing else. -/
def Obligations.SeqReturnsThenIncrements : Prop :=
  decode 0x04 = .ok .seqB ∧ decode 0x14 = .ok .seqU ∧
  (∀ s : State,
    exec .seqB s = .next (completed s { s.regs with seq0 := s.regs.seq0 + 1 } (okWith (.seq s.regs.seq0))) ∧
    exec .seqU s = .next (completed s { s.regs with seq1 := s.regs.seq1 + 1 } (okWith (.seq s.regs.seq1)))) ∧
  (∀ s : State, s.regs.seq0 = 0xFFFF →
    exec .seqB s = .next (completed s { s.regs with seq0 := 0x0000 } (okWith (.seq 0xFFFF)))) ∧
  (∀ s : State, s.regs.seq1 = 0xFFFF →
    exec .seqU s = .next (completed s { s.regs with seq1 := 0x0000 } (okWith (.seq 0xFFFF))))

/-- R132: TX allocates the counter of the role's kind and returns the frame with `MAGIC`, `PEER_ADDR`, kind and sequence. -/
def Obligations.TxBuildsTheFrameOfTheRole : Prop :=
  decode 0x05 = .ok .tx ∧
  (∀ s : State, s.cfg.wf = true → (presented s).payload.length = s.cfg.L - 9 → s.regs.role = .discovering →
    exec .tx s = .next (completed s { s.regs with seq0 := s.regs.seq0 + 1 } (okWith (.sent
      { frame := sealedFrame s.cfg s.cfg.kindBcast s.regs.seq0 s.regs.magic (presented s).payload
        dest := s.regs.peerAddr, kind := .broadcast, seq := s.regs.seq0 })))) ∧
  (∀ s : State, s.cfg.wf = true → (presented s).payload.length = s.cfg.L - 9 → s.regs.role = .paired →
    exec .tx s = .next (completed s { s.regs with seq1 := s.regs.seq1 + 1 } (okWith (.sent
      { frame := sealedFrame s.cfg s.cfg.kindUcast s.regs.seq1 s.regs.magic (presented s).payload
        dest := s.regs.peerAddr, kind := .unicast, seq := s.regs.seq1 })))) ∧
  (∀ s : State, (presented s).payload.length ≠ s.cfg.L - 9 → exec .tx s = .refused .payloadWrongLength)

/-- R34's rows SEQ and TX: the other counter and every other register are unchanged. -/
def Obligations.SequenceCommandsFrame : Prop :=
  ∀ (i : Instr) (s t : State), i ∈ [.seqB, .seqU, .tx] → exec i s = .next t →
    ∃ v r, t = completed s { s.regs with seq0 := v } r ∧ (i = .seqB ∨ i = .tx ∧ s.regs.role = .discovering) ∨
           t = completed s { s.regs with seq1 := v } r ∧ (i = .seqU ∨ i = .tx ∧ s.regs.role = .paired)

/-- R136: along any run without a reset, the commands that allocate kind `k` get consecutive values modulo 2^16, and
nothing else moves that counter. -/
def Obligations.SequenceLaw : Prop :=
  ∀ (k : Kind) (n : Nat) (s t : State), NoReset n s → Runs n s t →
    allocatedSeqs k n s = (List.range (allocatedSeqs k n s).length).map (fun j => seqGet k s.regs + BitVec.ofNat 16 j) ∧
    seqGet k t.regs = seqGet k s.regs + BitVec.ofNat 16 (allocatedSeqs k n s).length

/-! ### RX -/

/-- R152: RX refuses, raises and decodes exactly as DEC does on the same state. -/
def Obligations.RxDecodeStageIsDec : Prop :=
  ∀ s : State,
    (∀ r, exec .dec s = .refused r → exec .rx s = .refused r) ∧
    (∀ e, e ≠ .ok → exec .dec s = .next (completed s s.regs (raised e)) →
      exec .rx s = .next (completed s s.regs (rxRaised e))) ∧
    (∀ d, exec .dec s = .next (completed s s.regs (okWith (.decoded d))) →
      ∃ regs o, o ≠ .none ∧ exec .rx s = .next (completed s regs (rxWith o d)))

/-- R151: what RX does with each outcome of its checks, in order: raises, the four outcomes that write nothing, and the
pairing action. -/
def Obligations.RxStepsTheSession : Prop :=
  decode 0x06 = .ok .rx ∧
  (∀ s : State, s.cfg.NMAX < (presented s).bytes.length → exec .rx s = .refused .byteStringTooLong) ∧
  ∀ (s : State) (B : Bytes), (presented s).bytes = B → B.length ≤ s.cfg.NMAX →
    exec .rx s = .next
      (if B.length < 9 then completed s s.regs (rxRaised .frameTooShort)
       else if checksum s.cfg B ≠ half B 3 then completed s s.regs (rxRaised .checksumMismatch)
       else if B.getD 0 0 = s.cfg.kindBcast then completed s s.regs (rxWith .notUnicast (fieldsOf .broadcast B))
       else if B.getD 0 0 ≠ s.cfg.kindUcast then completed s s.regs (rxRaised .unknownFrameType)
       else if (presented s).destMatch = false then completed s s.regs (rxWith .notForUs (fieldsOf .unicast B))
       else if s.regs.role = .paired then completed s s.regs (rxWith .confirmed (fieldsOf .unicast B))
       else if B.length < 14 then completed s s.regs (rxWith .ignoredShort (fieldsOf .unicast B))
       else completed s (pairedRegisters s.regs (presented s).src (presented s).localTime (B.drop 9))
         (rxWith .pairedNow (fieldsOf .unicast B)))

/-- R153: the five conditions of the pairing transition, and no other. -/
def Obligations.RxPairsExactlyWhen : Prop :=
  ∀ s : State,
    (∃ regs d, exec .rx s = .next (completed s regs (rxWith .pairedNow d))) ↔
    ∃ d, exec .dec s = .next (completed s s.regs (okWith (.decoded d))) ∧ d.kind = .unicast ∧
      (presented s).destMatch = true ∧ s.regs.role = .discovering ∧ 5 ≤ d.payload.length

/-- R155, R156: what the pairing action writes; `SEQ` and `MAGIC` are unchanged. -/
def Obligations.PairingActionWrites : Prop :=
  ∀ (s : State) (regs : Registers) (d : Decoded),
    exec .rx s = .next (completed s regs (rxWith .pairedNow d)) →
    regs.peerAddr = (presented s).src ∧ regs.role = .paired ∧ regs.stillBcast = false ∧
    (1 ≤ (d.payload.getD 0 0).toNat → regs.deviceId.toNat = (d.payload.getD 0 0).toNat - 1) ∧
    (d.payload.getD 0 0 = 0x00 → regs.deviceId = 0xFFFF) ∧
    regs.clockOffset = word d.payload 1 - (presented s).localTime ∧
    regs.seq0 = s.regs.seq0 ∧ regs.seq1 = s.regs.seq1 ∧ regs.magic = s.regs.magic

/-- R157: the offset modulo 2^32, and as a signed value the difference itself wherever that is in range. -/
def Obligations.ClockOffsetIsTheSignedDifference : Prop :=
  ∀ (s : State) (regs : Registers) (d : Decoded),
    exec .rx s = .next (completed s regs (rxWith .pairedNow d)) →
    (regs.clockOffset.toNat : Int) =
      ((word d.payload 1).toNat - (presented s).localTime.toNat : Int) % 2 ^ 32 ∧
    (-(2 ^ 31) ≤ ((word d.payload 1).toNat - (presented s).localTime.toNat : Int) →
      ((word d.payload 1).toNat - (presented s).localTime.toNat : Int) < 2 ^ 31 →
      regs.clockOffset.toInt = (word d.payload 1).toNat - (presented s).localTime.toNat)

/-- R158, R160, R162 as a frame: every outcome of RX but `PAIRED_NOW` leaves all registers, and no outcome moves a
counter or `MAGIC` (R137). -/
def Obligations.RxFrame : Prop :=
  ∀ s t : State, exec .rx s = .next t →
    ∃ regs r, t = completed s regs r ∧ r.session ≠ none ∧
      (r.session ≠ some .pairedNow → regs = s.regs) ∧
      regs.seq0 = s.regs.seq0 ∧ regs.seq1 = s.regs.seq1 ∧ regs.magic = s.regs.magic

/-! ### The session over steps and runs -/

/-- R150: the transitions of the session machine, by what the host presents. A reset gives Discovering and the reset values
of R37. A command either is RX (word 0x06) that pairs from Discovering, with the frame DEC decodes from it, the conditions
of R153 met and the registers of R155; or it returns no `PAIRED_NOW` and leaves `ROLE` and the session registers. With
nothing presented there is no event, and no register changes. -/
def Obligations.SessionTransitions : Prop :=
  ∀ s t : State, step s = .next t →
    match s.inbox with
    | .reset entropy :: _ =>
        t.returned = s.returned ∧
        t.regs = { seq0 := 0x0000, seq1 := 0x0000, magic := entropy, role := .discovering, peerAddr := 0xFFFFFFFFFFFF,
                   deviceId := 0x0000, clockOffset := 0x00000000, stillBcast := true }
    | .command w x :: _ =>
        (w = 0x06 ∧ s.regs.role = .discovering ∧ x.destMatch = true ∧
          ∃ d, exec .dec s = .next (completed s s.regs (okWith (.decoded d))) ∧
            d.kind = .unicast ∧ 5 ≤ d.payload.length ∧
            t = completed s (pairedRegisters s.regs x.src x.localTime d.payload) (rxWith .pairedNow d)) ∨
        ((∃ r, t.returned = s.returned ++ [r] ∧ r.session ≠ some .pairedNow) ∧ t.regs.role = s.regs.role ∧
          t.regs.peerAddr = s.regs.peerAddr ∧ t.regs.clockOffset = s.regs.clockOffset ∧
          t.regs.deviceId = s.regs.deviceId ∧ t.regs.stillBcast = s.regs.stillBcast)
    | [] => t.returned = s.returned ∧ t.regs = s.regs

/-- R31 as an inductive invariant: every step keeps it, from every state that has it, reset or not. -/
def Obligations.StepKeepsSessionInvariant : Prop :=
  ∀ s t : State, SessionInv s.regs → step s = .next t → SessionInv t.regs

/-- R31 at the start of a run, for every configuration and entropy. -/
def Obligations.ResetHasSessionInvariant : Prop :=
  (∀ (c : Config) (entropy : BitVec 32), SessionInv (State.afterReset c entropy).regs) ∧ SessionInv State.reset.regs

/-- R31: every reachable state meets its clauses, and `ROLE` goes back to 0 only by reset. -/
def Obligations.ReachableStatesMeetTheSessionInvariant : Prop :=
  (∀ (c : Config) (entropy : BitVec 32) (events : List HostEvent) (n : Nat) (t : State),
    Runs n { State.afterReset c entropy with inbox := events } t → SessionInv t.regs) ∧
  ∀ s t : State, step s = .next t → s.regs.role = .paired → t.regs.role = .discovering →
    ∃ e rest, s.inbox = .reset e :: rest

/-- R163, R158: over any run without a reset, Paired persists and the session registers keep their values. -/
def Obligations.PairedPersistsUntilReset : Prop :=
  ∀ (n : Nat) (s t : State), NoReset n s → Runs n s t → s.regs.role = .paired →
    t.regs.role = .paired ∧ t.regs.peerAddr = s.regs.peerAddr ∧ t.regs.deviceId = s.regs.deviceId ∧
    t.regs.clockOffset = s.regs.clockOffset ∧ t.regs.stillBcast = s.regs.stillBcast

/-- R161: over any run without a reset the pairing action runs at most once, and without it the three registers keep
their values. -/
def Obligations.PairingHappensAtMostOnce : Prop :=
  ∀ (n : Nat) (s t : State), NoReset n s → Runs n s t →
    (resultsSince s t).countP isPairing ≤ 1 ∧
    ((resultsSince s t).countP isPairing = 0 →
      t.regs.clockOffset = s.regs.clockOffset ∧ t.regs.deviceId = s.regs.deviceId ∧ t.regs.peerAddr = s.regs.peerAddr)

/-- R226: TX before the pairing builds a Broadcast frame to `BCAST_ADDR`, TX after it a Unicast frame to the new peer. -/
def Obligations.PairingRedirectsTx : Prop :=
  ∀ (s t u : State) (d : Decoded), SessionInv s.regs → s.cfg.wf = true →
    exec .rx s = .next t → t.returned = s.returned ++ [rxWith .pairedNow d] →
    u.regs = t.regs → u.cfg = t.cfg → (presented u).payload.length = u.cfg.L - 9 →
    (∃ x, exec .tx { u with regs := s.regs } =
        .next (completed u { s.regs with seq0 := s.regs.seq0 + 1 } (okWith (.sent x))) ∧
      x.kind = .broadcast ∧ x.dest = 0xFFFFFFFFFFFF ∧ x.seq = s.regs.seq0) ∧
    (∃ x, exec .tx u = .next (completed u { t.regs with seq1 := s.regs.seq1 + 1 } (okWith (.sent x))) ∧
      x.kind = .unicast ∧ x.dest = (presented s).src ∧ x.seq = s.regs.seq1)

/-! ### TSADJ and STATUS -/

/-- R164: the timestamp plus `CLOCK_OFFSET` modulo 2^32; no register is written. -/
def Obligations.TsadjAddsTheClockOffset : Prop :=
  decode 0x07 = .ok .tsadj ∧
  (∀ s : State, exec .tsadj s = .next (completed s s.regs (okWith (.time ((presented s).t + s.regs.clockOffset))))) ∧
  (∀ s : State, SessionInv s.regs → s.regs.role = .discovering →
    exec .tsadj s = .next (completed s s.regs (okWith (.time (presented s).t))))

/-- R155, R164: after a pairing with peer time `T` at local time `t0`, TSADJ of `t1` returns `t1 + (T - t0)` modulo 2^32. -/
def Obligations.TsadjFollowsThePeerClock : Prop :=
  ∀ (s t u : State) (d : Decoded),
    exec .rx s = .next t → t.returned = s.returned ++ [rxWith .pairedNow d] →
    u.regs.clockOffset = t.regs.clockOffset →
    exec .tsadj u = .next (completed u u.regs (okWith (.time (BitVec.ofInt 32
      ((presented u).t.toNat + ((word d.payload 1).toNat - (presented s).localTime.toNat) : Int)))))

/-- R165: STATUS returns all eight registers and writes none. -/
def Obligations.StatusReturnsEveryRegister : Prop :=
  decode 0x08 = .ok .status ∧
  ∀ s : State, exec .status s = .next (completed s s.regs (okWith (.view
    { role := s.regs.role, peerAddr := s.regs.peerAddr, deviceId := s.regs.deviceId,
      clockOffset := s.regs.clockOffset, stillBcast := s.regs.stillBcast,
      seq0 := s.regs.seq0, seq1 := s.regs.seq1, magic := s.regs.magic })))

/-- R33: the two status outputs, and that a step changes them only where it writes `ROLE` or `PEER_ADDR`: at a reset and
at a pairing. -/
def Obligations.StatusOutputsFollowTheSession : Prop :=
  (∀ s : State, (pairedOut s = 1 ↔ s.regs.role = .paired) ∧ peerAddressOut s = s.regs.peerAddr) ∧
  ∀ s t : State, step s = .next t → (∀ e rest, s.inbox ≠ .reset e :: rest) →
    (resultsSince s t).all (fun r => !isPairing r) = true →
    pairedOut t = pairedOut s ∧ peerAddressOut t = peerAddressOut s

/-- R25, R79, R89, R90: the code values of `ROLE`, `out.kind`, `out.status` and `out.session`. -/
def Obligations.CodeValues : Prop :=
  Role.discovering.code = 0 ∧ Role.paired.code = 1 ∧ Kind.broadcast.code = 0 ∧ Kind.unicast.code = 1 ∧
  Status.ok.code = 0 ∧ Status.frameTooShort.code = 1 ∧ Status.checksumMismatch.code = 2 ∧
  Status.unknownFrameType.code = 3 ∧ Status.illegalCommand.code = 4 ∧
  Session.none.code = 0 ∧ Session.notUnicast.code = 1 ∧ Session.notForUs.code = 2 ∧ Session.pairedNow.code = 3 ∧
  Session.confirmed.code = 4 ∧ Session.ignoredShort.code = 5
end

