-- ==== Sys2Proof/Laws/State.lean ====
section
/-! SUPPORT. The fields of each state and register update, by `rfl`, so that no proof unfolds a record update. -/

namespace Sys2Proof

/-! The widths of R7 as numerals: `omega` does not unfold them. -/

@[simp] theorem Config.addrW_eq : Config.addrW = 48 := rfl
@[simp] theorem Config.devIdW_eq : Config.devIdW = 16 := rfl
@[simp] theorem Config.ofsW_eq : Config.ofsW = 32 := rfl

end Sys2Proof

namespace Sys2Proof.Machine

section Answer
variable (r : Result) (s : State)
@[simp] theorem answer_regs : (answer r s).regs = s.regs := rfl
@[simp] theorem answer_cfg : (answer r s).cfg = s.cfg := rfl
@[simp] theorem answer_inbox : (answer r s).inbox = s.inbox.tail := rfl
@[simp] theorem answer_returned : (answer r s).returned = s.returned ++ [r] := rfl
end Answer

section Completed
variable (s : State) (regs : Registers) (r : Result)
@[simp] theorem completed_regs : (completed s regs r).regs = regs := rfl
@[simp] theorem completed_cfg : (completed s regs r).cfg = s.cfg := rfl
@[simp] theorem completed_inbox : (completed s regs r).inbox = s.inbox.tail := rfl
@[simp] theorem completed_returned : (completed s regs r).returned = s.returned ++ [r] := rfl
theorem answer_eq_completed : answer r s = completed s s.regs r := rfl
theorem answer_with_regs_eq_completed : answer r { s with regs := regs } = completed s regs r := rfl
end Completed

theorem next_inj {a b : State} (h : (.next a : Host.Outcome State Fault Refusal) = .next b) : a = b := by cases h; rfl

theorem completed_inj {s : State} {a b : Registers} {p q : Result} (h : completed s a p = completed s b q) :
    a = b ∧ p = q := by simpa [completed] using h

/-- What an accepted configuration meets (R9, R81). -/
theorem wf_iff (c : Config) : c.wf = true ↔ 14 ≤ c.L ∧ c.L ≤ c.NMAX ∧ c.kindBcast ≠ c.kindUcast := by
  simp [Config.wf, and_assoc]

theorem plen_eq (c : Config) : c.plen = c.L - 9 := rfl

section Counters
variable (v : BitVec 16) (k : Kind) (r : Registers)
@[simp] theorem seqGet_broadcast : seqGet .broadcast r = r.seq0 := rfl
@[simp] theorem seqGet_unicast : seqGet .unicast r = r.seq1 := rfl
@[simp] theorem seqSet_broadcast : seqSet .broadcast v r = { r with seq0 := v } := rfl
@[simp] theorem seqSet_unicast : seqSet .unicast v r = { r with seq1 := v } := rfl
@[simp] theorem seqGet_seqSet : seqGet k (seqSet k v r) = v := by cases k <;> rfl
theorem seqGet_seqSet_of_ne {j : Kind} (h : j ≠ k) : seqGet j (seqSet k v r) = seqGet j r := by
  cases j <;> cases k <;> first | rfl | exact absurd rfl h
@[simp] theorem seqSet_magic : (seqSet k v r).magic = r.magic := by cases k <;> rfl
@[simp] theorem seqSet_role : (seqSet k v r).role = r.role := by cases k <;> rfl
@[simp] theorem seqSet_peerAddr : (seqSet k v r).peerAddr = r.peerAddr := by cases k <;> rfl
@[simp] theorem seqSet_deviceId : (seqSet k v r).deviceId = r.deviceId := by cases k <;> rfl
@[simp] theorem seqSet_clockOffset : (seqSet k v r).clockOffset = r.clockOffset := by cases k <;> rfl
@[simp] theorem seqSet_stillBcast : (seqSet k v r).stillBcast = r.stillBcast := by cases k <;> rfl
@[simp] theorem seqAdvance_broadcast : seqAdvance .broadcast r = { r with seq0 := r.seq0 + 1 } := rfl
@[simp] theorem seqAdvance_unicast : seqAdvance .unicast r = { r with seq1 := r.seq1 + 1 } := rfl
theorem seqAdvance_eq : seqAdvance k r = seqSet k (seqGet k r + 1) r := rfl
@[simp] theorem roleKind_discovering : roleKind .discovering = .broadcast := rfl
@[simp] theorem roleKind_paired : roleKind .paired = .unicast := rfl
end Counters

section Pairing
variable (src : Addr) (t0 : BitVec 32) (p : Bytes) (r : Registers)
@[simp] theorem pairRegisters_seq0 : (pairRegisters src t0 p r).seq0 = r.seq0 := rfl
@[simp] theorem pairRegisters_seq1 : (pairRegisters src t0 p r).seq1 = r.seq1 := rfl
@[simp] theorem pairRegisters_magic : (pairRegisters src t0 p r).magic = r.magic := rfl
@[simp] theorem pairRegisters_role : (pairRegisters src t0 p r).role = .paired := rfl
@[simp] theorem pairRegisters_peerAddr : (pairRegisters src t0 p r).peerAddr = src := rfl
@[simp] theorem pairRegisters_stillBcast : (pairRegisters src t0 p r).stillBcast = false := rfl
end Pairing

section Presented
variable (s : State)
@[simp] theorem presented_returned (l : List Result) : presented { s with returned := l } = presented s := rfl
@[simp] theorem presented_regs (r : Registers) : presented { s with regs := r } = presented s := rfl
theorem presented_of_command {s : State} {w : BitVec 8} {x : Inputs} {rest : List HostEvent}
    (h : s.inbox = .command w x :: rest) : presented s = x := by
  simp [presented, h]
@[simp] theorem withFetchWord_regs (nbits w : Nat) : (s.withFetchWord nbits w).regs = s.regs := rfl
@[simp] theorem withFetchWord_cfg (nbits w : Nat) : (s.withFetchWord nbits w).cfg = s.cfg := rfl
@[simp] theorem withFetchWord_returned (nbits w : Nat) : (s.withFetchWord nbits w).returned = s.returned := rfl
end Presented

end Sys2Proof.Machine
end

