-- ==== Sys2Proof/Laws/Bytes.lean ====
section
/-! SUPPORT. Byte strings: what `putBytes` and `memWrite` change, and what `memRead` reads (spec/20_memory.md R51, R52). -/

namespace Sys2Proof.Machine

@[simp] theorem length_zeros (k : Nat) : (zeros k).length = k := by simp [zeros]

@[simp] theorem length_leBytes (n v : Nat) : (leBytes n v).length = n := by
  induction n generalizing v with
  | zero => rfl
  | succ n ih => simp [leBytes, ih]

@[simp] theorem length_putBytes (B : Bytes) (off : Nat) (bs : Bytes) : (putBytes B off bs).length = B.length := by
  induction bs generalizing B off with
  | nil => rfl
  | cons b bs ih => simp [putBytes, ih]

@[simp] theorem length_memWrite (B : Bytes) (off n v : Nat) : (memWrite B off n v).length = B.length := by
  simp [memWrite]

/-- R52: the stored bytes, and no other. -/
theorem getElem?_putBytes (B : Bytes) (off : Nat) (bs : Bytes) (h : off + bs.length ≤ B.length) (i : Nat) :
    (putBytes B off bs)[i]? = if off ≤ i ∧ i < off + bs.length then bs[i - off]? else B[i]? := by
  induction bs generalizing B off with
  | nil => simp [putBytes]
  | cons b bs ih =>
    simp only [List.length_cons] at h ⊢
    rw [putBytes, ih (B.set off b) (off + 1) (by simp; omega), List.getElem?_set]
    by_cases hi : i = off
    · subst hi; simp; omega
    · by_cases h1 : off + 1 ≤ i ∧ i < off + 1 + bs.length
      · rw [if_pos h1, if_pos (by omega)]
        obtain ⟨j, rfl⟩ : ∃ j, i = off + 1 + j := ⟨i - (off + 1), by omega⟩
        simp [show off + 1 + j - off = j + 1 by omega]
      · rw [if_neg h1, if_neg (by omega), if_neg (by omega)]

/-- A run of bytes put at the very end of a string replaces that end. -/
theorem putBytes_to_end (B : Bytes) (off : Nat) (bs : Bytes) (h : off + bs.length = B.length) :
    putBytes B off bs = B.take off ++ bs := by
  induction bs generalizing B off with
  | nil => simp only [List.length_nil, Nat.add_zero] at h; simp [putBytes, h]
  | cons b bs ih =>
    simp only [List.length_cons] at h
    rw [putBytes, ih (B.set off b) (off + 1) (by simp; omega), List.take_add_one,
      List.take_set_of_le (Nat.le_refl off), List.getElem?_set_self (by omega)]
    simp

theorem leValue_lt (bs : Bytes) : leValue bs < 2 ^ (8 * bs.length) := by
  induction bs with
  | nil => simp [leValue]
  | cons b bs ih =>
    have := b.isLt
    simp only [leValue, List.length_cons, Nat.mul_add, Nat.mul_one, Nat.pow_add]
    omega

/-- The bytes of a value read back as the value, reduced to their width. -/
theorem leValue_leBytes (n v : Nat) : leValue (leBytes n v) = v % 2 ^ (8 * n) := by
  induction n generalizing v with
  | zero => simp [leBytes, leValue, Nat.mod_one]
  | succ n ih =>
    simp only [leBytes, leValue, ih, BitVec.toNat_ofNat]
    rw [show 8 * (n + 1) = 8 + 8 * n by ring, Nat.pow_add, Nat.mod_mul]

theorem memRead_one (B : Bytes) (i : Nat) : memRead B i 1 = (B.getD i 0).toNat := by
  unfold memRead
  rcases h : B.drop i with _ | ⟨b, bs⟩
  · simp [leValue, List.getD, List.getElem?_eq_none (List.drop_eq_nil_iff.mp h)]
  · have : B[i]? = some b := by simpa [h] using (List.getElem?_drop (xs := B) (i := i) (j := 0)).symm
    simp [leValue, List.getD, this]

theorem memRead_succ (B : Bytes) (i n : Nat) (h : i < B.length) :
    memRead B i (n + 1) = (B.getD i 0).toNat + 2 ^ 8 * memRead B (i + 1) n := by
  unfold memRead
  rw [List.drop_eq_getElem_cons h, List.take_succ_cons, leValue]
  simp [List.getD, h]

theorem toNat_append_eq {m n : Nat} (a : BitVec m) (b : BitVec n) : (a ++ b).toNat = a.toNat * 2 ^ n + b.toNat := by
  rw [BitVec.toNat_append, ← Nat.shiftLeft_add_eq_or_of_lt b.isLt, Nat.shiftLeft_eq]

/-- A two-byte read is the little-endian half-word (R51, R53). -/
theorem memRead_two_eq_half (B : Bytes) (i : Nat) (h : i + 2 ≤ B.length) :
    BitVec.ofNat 16 (memRead B i 2) = half B i := by
  rw [memRead_succ B i 1 (by omega), memRead_one]
  apply BitVec.eq_of_toNat_eq
  have := (B.getD i 0).isLt
  have := (B.getD (i + 1) 0).isLt
  simp only [half, toNat_append_eq, BitVec.toNat_ofNat]
  omega

/-- A four-byte read is the little-endian word (R51, R53). -/
theorem memRead_four_eq_word (B : Bytes) (i : Nat) (h : i + 4 ≤ B.length) :
    BitVec.ofNat 32 (memRead B i 4) = word B i := by
  rw [memRead_succ B i 3 (by omega), memRead_succ B _ 2 (by omega), memRead_succ B _ 1 (by omega), memRead_one]
  apply BitVec.eq_of_toNat_eq
  have := (B.getD i 0).isLt
  have := (B.getD (i + 1) 0).isLt
  have := (B.getD (i + 2) 0).isLt
  have := (B.getD (i + 3) 0).isLt
  simp only [word, toNat_append_eq, BitVec.toNat_ofNat]
  simp only [Nat.add_assoc, Nat.reduceAdd]
  omega

end Sys2Proof.Machine
end

