-- ==== Sys2Proof/Laws/Codec.lean ====
section
/-! SUPPORT. One lemma per function of the codec, from its pseudocode to the wire layout of spec/30_encoding.md R80 written out
byte by byte (`wireFrame`, `checksum`, `half`, `word` of Safety.lean). -/

namespace Sys2Proof.Machine

/-- A two-byte write sets the low byte, then the high byte (R52). -/
theorem memWrite_two (B : Bytes) (off : Nat) (v : BitVec 16) :
    memWrite B off 2 v.toNat = (B.set off (v.extractLsb' 0 8)).set (off + 1) (v.extractLsb' 8 8) := by
  simp only [memWrite, leBytes, putBytes]
  congr 2
  simp [Nat.shiftRight_eq_div_pow]

/-- A four-byte write sets the four bytes from the lowest up (R52). -/
theorem memWrite_four (B : Bytes) (off : Nat) (v : BitVec 32) :
    memWrite B off 4 v.toNat =
      (((B.set off (v.extractLsb' 0 8)).set (off + 1) (v.extractLsb' 8 8)).set (off + 2) (v.extractLsb' 16 8)).set
        (off + 3) (v.extractLsb' 24 8) := by
  simp only [memWrite, leBytes, putBytes, Nat.div_div_eq_div_mul]
  congr 2
  all_goals simp [BitVec.extractLsb', Nat.shiftRight_eq_div_pow]

@[simp] theorem length_wireFrame (k : Byte) (q v : BitVec 16) (m : BitVec 32) (p : Bytes) :
    (wireFrame k q v m p).length = p.length + 9 := by simp [wireFrame]

/-- A string of at least nine bytes is its nine header bytes and the rest. -/
theorem exists_header (B : Bytes) (h : 9 ≤ B.length) :
    ∃ b0 b1 b2 b3 b4 b5 b6 b7 b8 p, B = [b0, b1, b2, b3, b4, b5, b6, b7, b8] ++ p := by
  match B, h with
  | b0 :: b1 :: b2 :: b3 :: b4 :: b5 :: b6 :: b7 :: b8 :: p, _ => exact ⟨b0, b1, b2, b3, b4, b5, b6, b7, b8, p, rfl⟩

theorem frameBody_eq_wireFrame (c : Config) (k : Kind) (q : BitVec 16) (m : BitVec 32) (p : Bytes)
    (hL : 9 ≤ c.L) (hp : p.length = c.L - 9) : frameBody c k q m p = wireFrame (kindByte c k) q 0 m p := by
  have hz : zeros c.L = [0, 0, 0, 0, 0, 0, 0, 0, 0] ++ zeros (c.L - 9) := by
    obtain ⟨n, hn⟩ := Nat.exists_eq_add_of_le hL
    rw [hn, Nat.add_sub_cancel_left, zeros, List.replicate_add]
    rfl
  unfold frameBody
  simp only [hz]
  rw [memWrite_two, show (0x0000 : Nat) = (0 : BitVec 16).toNat from rfl, memWrite_two, memWrite_four,
    putBytes_to_end _ _ _ (by simp [hp]; omega)]
  simp [wireFrame]

/-- R106: the frame ENC and TX build is R80's layout sealed with its checksum. -/
theorem buildFrame_eq_sealedFrame (c : Config) (k : Kind) (q : BitVec 16) (m : BitVec 32) (p : Bytes)
    (hL : 9 ≤ c.L) (hp : p.length = c.L - 9) : buildFrame c k q m p = sealedFrame c (kindByte c k) q m p := by
  unfold buildFrame
  simp only [frameBody_eq_wireFrame c k q m p hL hp, memWrite_two]
  rfl

/-- The two ways the spec writes a frame with its `crc` field read as zero agree (R105, R108). -/
theorem crc16_zeroCrcField (c : Config) (B : Bytes) (h : 9 ≤ B.length) :
    crc16 c.crc (zeroCrcField B) = checksum c B := by
  obtain ⟨b0, b1, b2, b3, b4, b5, b6, b7, b8, p, rfl⟩ := exists_header B h
  rfl

theorem fcs_eq_checksum (c : Config) (B : Bytes) : fcs c.crc B = checksum c B := rfl

theorem storedCrc_eq_half (B : Bytes) (h : 9 ≤ B.length) : storedCrc B = half B 3 :=
  memRead_two_eq_half B 3 (by omega)

theorem typeByte_eq (B : Bytes) : BitVec.ofNat 8 (memRead B 0 1) = B.getD 0 0 := by simp [memRead_one]

/-- R108, R109: what the decoder answers, in terms of the wire layout. -/
theorem decodeFrame_eq (c : Config) (B : Bytes) :
    decodeFrame c B =
      if B.length < 9 then .error .frameTooShort
      else if checksum c B ≠ half B 3 then .error .checksumMismatch
      else if B.getD 0 0 = c.kindBcast then .ok (fieldsOf .broadcast B)
      else if B.getD 0 0 = c.kindUcast then .ok (fieldsOf .unicast B)
      else .error .unknownFrameType := by
  unfold decodeFrame
  by_cases h : B.length < 9
  · simp [h]
  · have h9 : 9 ≤ B.length := by omega
    rw [if_neg h, if_neg h, crc16_zeroCrcField c B h9, storedCrc_eq_half B h9, typeByte_eq,
      memRead_two_eq_half B 1 (by omega), memRead_four_eq_word B 5 (by omega)]
    unfold kindOfByte fieldsOf
    split
    · rfl
    · by_cases hb : B.getD 0 0 = c.kindBcast
      · simp only [hb, if_true]
      · simp only [if_neg hb]
        by_cases hu : B.getD 0 0 = c.kindUcast <;> simp only [if_pos, if_neg, hu, not_false_eq_true]

section WireFields
variable (k : Byte) (q v : BitVec 16) (m : BitVec 32) (p : Bytes)

@[simp] theorem wireFrame_type : (wireFrame k q v m p).getD 0 0 = k := rfl
@[simp] theorem wireFrame_payload : (wireFrame k q v m p).drop 9 = p := rfl

theorem append_extractLsb'_16 : v.extractLsb' 8 8 ++ v.extractLsb' 0 8 = v := by
  apply BitVec.eq_of_toNat_eq
  simp only [toNat_append_eq, BitVec.extractLsb'_toNat, Nat.shiftRight_eq_div_pow]
  have := v.isLt
  omega

@[simp] theorem wireFrame_seq : half (wireFrame k q v m p) 1 = q := append_extractLsb'_16 q
@[simp] theorem wireFrame_crc : half (wireFrame k q v m p) 3 = v := append_extractLsb'_16 v

@[simp] theorem wireFrame_magic : word (wireFrame k q v m p) 5 = m := by
  apply BitVec.eq_of_toNat_eq
  simp only [word, wireFrame, List.cons_append, List.nil_append, toNat_append_eq, List.getD_cons_succ,
    List.getD_cons_zero, BitVec.extractLsb'_toNat, Nat.shiftRight_eq_div_pow]
  have := m.isLt
  omega

/-- R105 on R80's layout: the `crc` field does not enter its own checksum. -/
@[simp] theorem checksum_wireFrame (c : Config) : checksum c (wireFrame k q v m p) = crc16 c.crc (wireFrame k q 0 m p) := rfl

end WireFields

/-- A string of at least nine bytes is R80's layout of its own fields. -/
theorem eq_wireFrame_of_fields (B : Bytes) (h : 9 ≤ B.length) :
    B = wireFrame (B.getD 0 0) (half B 1) (half B 3) (word B 5) (B.drop 9) := by
  obtain ⟨b0, b1, b2, b3, b4, b5, b6, b7, b8, p, rfl⟩ := exists_header B h
  have lo : ∀ a b : Byte, (a ++ b : BitVec 16).extractLsb' 0 8 = b := fun a b => by
    apply BitVec.eq_of_toNat_eq; have := b.isLt
    simp only [BitVec.extractLsb'_toNat, toNat_append_eq, Nat.shiftRight_eq_div_pow]; omega
  have hi : ∀ a b : Byte, (a ++ b : BitVec 16).extractLsb' 8 8 = a := fun a b => by
    apply BitVec.eq_of_toNat_eq; have := b.isLt; have := a.isLt
    simp only [BitVec.extractLsb'_toNat, toNat_append_eq, Nat.shiftRight_eq_div_pow]; omega
  have w0 : ∀ a b c d : Byte, ((a ++ b : BitVec 16) ++ (c ++ d : BitVec 16) : BitVec 32).extractLsb' 0 8 = d :=
    fun a b c d => by
      apply BitVec.eq_of_toNat_eq; have := d.isLt
      simp only [BitVec.extractLsb'_toNat, toNat_append_eq, Nat.shiftRight_eq_div_pow]; omega
  have w1 : ∀ a b c d : Byte, ((a ++ b : BitVec 16) ++ (c ++ d : BitVec 16) : BitVec 32).extractLsb' 8 8 = c :=
    fun a b c d => by
      apply BitVec.eq_of_toNat_eq; have := d.isLt; have := c.isLt
      simp only [BitVec.extractLsb'_toNat, toNat_append_eq, Nat.shiftRight_eq_div_pow]; omega
  have w2 : ∀ a b c d : Byte, ((a ++ b : BitVec 16) ++ (c ++ d : BitVec 16) : BitVec 32).extractLsb' 16 8 = b :=
    fun a b c d => by
      apply BitVec.eq_of_toNat_eq; have := d.isLt; have := c.isLt; have := b.isLt
      simp only [BitVec.extractLsb'_toNat, toNat_append_eq, Nat.shiftRight_eq_div_pow]; omega
  have w3 : ∀ a b c d : Byte, ((a ++ b : BitVec 16) ++ (c ++ d : BitVec 16) : BitVec 32).extractLsb' 24 8 = a :=
    fun a b c d => by
      apply BitVec.eq_of_toNat_eq; have := d.isLt; have := c.isLt; have := b.isLt; have := a.isLt
      simp only [BitVec.extractLsb'_toNat, toNat_append_eq, Nat.shiftRight_eq_div_pow]; omega
  simp [wireFrame, half, word, lo, hi, w0, w1, w2, w3]

/-- The pairing action in terms of the payload's bytes (R154 to R157). -/
theorem pairRegisters_eq (src : Addr) (t0 : BitVec 32) (p : Bytes) (r : Registers) (h : 5 ≤ p.length) :
    pairRegisters src t0 p r = pairedRegisters r src t0 p := by
  unfold pairRegisters pairedRegisters
  rw [memRead_four_eq_word p 1 (by omega), memRead_one, BitVec.ofNat_toNat]

end Sys2Proof.Machine
end

