-- ==== Sys2Proof/Laws/Crc.lean ====
section
/-! SUPPORT. The CRC register over strings: one byte at a time, and its linearity over exclusive or (spec/40_frame_codec.md
R100). -/

namespace Sys2Proof.Machine

section Register
variable (v : CrcVariant) (reg : BitVec 16)

@[simp] theorem crcBytes_nil : crcBytes v reg [] = reg := rfl
@[simp] theorem crcBytes_cons (b : Byte) (B : Bytes) :
    crcBytes v reg (b :: B) = crcBytes v (crcByte v reg b) B := rfl
@[simp] theorem crcBytes_append (A B : Bytes) :
    crcBytes v reg (A ++ B) = crcBytes v (crcBytes v reg A) B := List.foldl_append

end Register

/-- One step is linear: the polynomial enters exactly when the top bits differ. -/
theorem crcStep_xor (poly a b : BitVec 16) : crcStep poly (a ^^^ b) = crcStep poly a ^^^ crcStep poly b := by
  unfold crcStep
  rw [BitVec.getLsbD_xor, BitVec.shiftLeft_xor_distrib]
  have cancel : ∀ x y p : BitVec 16, x ^^^ y = x ^^^ p ^^^ (y ^^^ p) := fun x y p => by
    rw [BitVec.xor_assoc, BitVec.xor_comm p, BitVec.xor_assoc, BitVec.xor_self, BitVec.xor_zero]
  cases a.getLsbD 15 <;> cases b.getLsbD 15 <;>
    simp only [bne_self_eq_false, Bool.false_bne, Bool.true_bne, Bool.not_false, if_true, if_false, Bool.false_eq_true]
  · ac_rfl
  · ac_rfl
  · exact cancel _ _ _

theorem crcSteps_xor (poly : BitVec 16) (n : Nat) (a b : BitVec 16) :
    crcSteps poly n (a ^^^ b) = crcSteps poly n a ^^^ crcSteps poly n b := by
  induction n generalizing a b with
  | zero => rfl
  | succ n ih => rw [crcSteps, crcStep_xor, ih]; rfl

/-- The bits of byte `b` as they enter the register. -/
theorem crcByte_eq (v : CrcVariant) (reg : BitVec 16) (b : Byte) :
    crcByte v reg b = crcSteps v.poly 8 reg ^^^ crcSteps v.poly 8 ((if v.refin then reflect b else b).setWidth 16 <<< 8) :=
  crcSteps_xor _ _ _ _

/-- Two runs over one string keep their difference, moved through the steps only. -/
theorem crcBytes_xor (v : CrcVariant) (a d : BitVec 16) (B : Bytes) :
    crcBytes v (a ^^^ d) B = crcBytes v a B ^^^ crcSteps v.poly (8 * B.length) d := by
  have add : ∀ m n x, crcSteps v.poly (m + n) x = crcSteps v.poly n (crcSteps v.poly m x) := fun m n x => by
    induction m generalizing x with
    | zero => simp [crcSteps]
    | succ m ih => rw [Nat.succ_add, crcSteps, ih]; rfl
  induction B generalizing a d with
  | nil => simp [crcSteps]
  | cons b B ih =>
    have : crcByte v (a ^^^ d) b = crcByte v a b ^^^ crcSteps v.poly 8 d := by
      rw [crcByte_eq, crcByte_eq, crcSteps_xor]; ac_rfl
    rw [crcBytes_cons, crcBytes_cons, this, ih, List.length_cons, Nat.mul_succ, Nat.add_comm, add]

end Sys2Proof.Machine
end

