-- ==== Sys2Proof/Laws/PerInstr.lean ====
section
/-! SUPPORT. Statements per command, one lemma per constructor of `Instr`. -/

namespace Sys2Proof.Laws.Encoding

/-- The word of `i` keeps R74 (reserved bits 0), R72 (an assigned operation) and R73 (`K = 1` for ENC and SEQ only), and
decodes to `i`. -/
def Statement (i : Instr) : Prop :=
  fieldRsv (encode i) = 0 ∧ (fieldOp (encode i)).toNat ≤ 8 ∧
  (fieldK (encode i) = 1 → fieldOp (encode i) = 2 ∨ fieldOp (encode i) = 4) ∧ decode (encode i) = .ok i

theorem nop : Statement .nop := by unfold Statement; decide
theorem crc16 : Statement .crc16 := by unfold Statement; decide
theorem encB : Statement .encB := by unfold Statement; decide
theorem encU : Statement .encU := by unfold Statement; decide
theorem dec : Statement .dec := by unfold Statement; decide
theorem seqB : Statement .seqB := by unfold Statement; decide
theorem seqU : Statement .seqU := by unfold Statement; decide
theorem tx : Statement .tx := by unfold Statement; decide
theorem rx : Statement .rx := by unfold Statement; decide
theorem tsadj : Statement .tsadj := by unfold Statement; decide
theorem status : Statement .status := by unfold Statement; decide

end Sys2Proof.Laws.Encoding
end

