-- ==== Sys2Proof/Laws/Step.lean ====
section
/-! SUPPORT. What one command, and one step, can do, said once: every claim about all commands or about runs is a case
analysis over `exec_next_cases` and `step_next_cases`. -/

namespace Sys2Proof.Machine

/-- `i` allocates a sequence number of kind `k` in `s` (R136). -/
abbrev AllocatesKind (i : Instr) (s : State) (k : Kind) : Prop :=
  i = .seqB ∧ k = .broadcast ∨ i = .seqU ∧ k = .unicast ∨ i = .tx ∧ k = roleKind s.regs.role

/-- The conditions of the pairing transition that are the session stage's own (R153). -/
theorem sessionOutcome_eq_pairedNow {role : Role} {dm : Bool} {d : Decoded} :
    sessionOutcome role dm d = .pairedNow ↔
      d.kind = .unicast ∧ dm = true ∧ role = .discovering ∧ 5 ≤ d.payload.length := by
  unfold sessionOutcome
  cases d.kind <;> cases dm <;> cases role <;> simp

/-- A decode that succeeded never leaves the session outcome `NONE` (R90). -/
theorem sessionOutcome_ne_none (role : Role) (dm : Bool) (d : Decoded) : sessionOutcome role dm d ≠ .none := by
  unfold sessionOutcome
  cases d.kind <;> cases dm <;> cases role <;> simp
  split <;> simp

/-- Only `PAIRED_NOW` writes registers (R151). -/
theorem sessionRegisters_of_ne {o : Session} (h : o ≠ .pairedNow) (x : Inputs) (p : Bytes) (r : Registers) :
    sessionRegisters o x p r = r := by
  cases o <;> first | rfl | exact absurd rfl h

/-- A next state of a command is one of three: no register written; one counter advanced, its old value returned; or the
pairing action. -/
theorem exec_next_cases {i : Instr} {s t : State} (h : exec i s = .next t) :
    (i ∉ [.seqB, .seqU, .tx] ∧ ∃ r, t = completed s s.regs r ∧ r.session ≠ some .pairedNow) ∨
    (∃ k r, AllocatesKind i s k ∧ t = completed s (seqAdvance k s.regs) r ∧
      outSeq r = some (seqGet k s.regs) ∧ r.session = none) ∨
    (i = .rx ∧ s.regs.role = .discovering ∧ ∃ d : Decoded, 5 ≤ d.payload.length ∧
      t = completed s (pairRegisters (presented s).src (presented s).localTime d.payload s.regs) (rxWith .pairedNow d)) := by
  cases i with
  | nop => cases h; exact .inl ⟨by decide, _, rfl, nofun⟩
  | crc16 =>
    simp only [exec, execCrc16] at h
    split at h <;> cases h
    exact .inl ⟨by decide, _, rfl, nofun⟩
  | encB =>
    simp only [exec, execEncB, encodeCommand] at h
    split at h <;> cases h
    exact .inl ⟨by decide, _, rfl, nofun⟩
  | encU =>
    simp only [exec, execEncU, encodeCommand] at h
    split at h <;> cases h
    exact .inl ⟨by decide, _, rfl, nofun⟩
  | dec =>
    simp only [exec, execDec, raiseStatus] at h
    split at h
    · cases h
    · split at h <;> cases h <;> exact .inl ⟨by decide, _, rfl, nofun⟩
  | seqB => cases h; exact .inr (.inl ⟨.broadcast, _, .inl ⟨rfl, rfl⟩, rfl, rfl, rfl⟩)
  | seqU => cases h; exact .inr (.inl ⟨.unicast, _, .inr (.inl ⟨rfl, rfl⟩), rfl, rfl, rfl⟩)
  | tx =>
    simp only [exec, execTx] at h
    split at h <;> cases h
    exact .inr (.inl ⟨_, _, .inr (.inr ⟨rfl, rfl⟩), rfl, rfl, rfl⟩)
  | rx =>
    simp only [exec, execRx, raiseStatus] at h
    split at h
    · cases h
    · split at h
      · cases h; exact .inl ⟨by decide, _, rfl, nofun⟩
      · rename_i d _
        cases h
        cases ho : sessionOutcome s.regs.role (presented s).destMatch d with
        | pairedNow =>
          have hp := sessionOutcome_eq_pairedNow.1 ho
          exact .inr (.inr ⟨rfl, hp.2.2.1, d, hp.2.2.2, rfl⟩)
        | none => exact .inl ⟨by decide, _, rfl, nofun⟩
        | notUnicast => exact .inl ⟨by decide, _, rfl, nofun⟩
        | notForUs => exact .inl ⟨by decide, _, rfl, nofun⟩
        | confirmed => exact .inl ⟨by decide, _, rfl, nofun⟩
        | ignoredShort => exact .inl ⟨by decide, _, rfl, nofun⟩
  | tsadj => cases h; exact .inl ⟨by decide, _, rfl, nofun⟩
  | status => cases h; exact .inl ⟨by decide, _, rfl, nofun⟩

/-- A configuration that is refused has no step. -/
theorem step_of_bad {s : State} (h : s.cfg.wf = false) : step s = .refused .badConfiguration := by
  simp [step, configAccepted, h]

theorem wf_of_step_next {s t : State} (h : step s = .next t) : s.cfg.wf = true := by
  by_contra hw
  rw [step_of_bad (by simpa using hw)] at h
  cases h

/-- A next state of a step: nothing was presented, a reset, an illegal word, or one command. -/
theorem step_next_cases {s t : State} (h : step s = .next t) :
    (s.inbox = [] ∧ t = s) ∨
    (∃ e rest, s.inbox = .reset e :: rest ∧
      t = { regs := Registers.atReset e, cfg := s.cfg, inbox := rest, returned := s.returned }) ∨
    (∃ w x rest e, s.inbox = .command w x :: rest ∧ decode w = .error e ∧
      t = completed s s.regs (raised .illegalCommand)) ∨
    (∃ w x rest i, s.inbox = .command w x :: rest ∧ decode w = .ok i ∧ exec i s = .next t) := by
  have hw := wf_of_step_next h
  simp only [step, configAccepted, hw, if_true] at h
  split at h
  · rename_i hi; cases h; exact .inl ⟨hi, rfl⟩
  · rename_i e rest hi; cases h; exact .inr (.inl ⟨e, rest, hi, by simp [hi]; rfl⟩)
  · rename_i w x rest hi
    split at h
    · rename_i i hd; exact .inr (.inr (.inr ⟨w, x, rest, i, hi, hd, h⟩))
    · rename_i e hd; cases h; exact .inr (.inr (.inl ⟨w, x, rest, e, hi, hd, rfl⟩))

/-- The word of SEQ.B, and no other, decodes to it. -/
theorem decode_seqB : ∀ w, decode w = .ok .seqB ↔ w = 0x04 := by decide +kernel
/-- The word of SEQ.U, and no other, decodes to it. -/
theorem decode_seqU : ∀ w, decode w = .ok .seqU ↔ w = 0x14 := by decide +kernel
/-- The word of TX, and no other, decodes to it. -/
theorem decode_tx : ∀ w, decode w = .ok .tx ↔ w = 0x05 := by decide +kernel
/-- The word of RX, and no other, decodes to it. -/
theorem decode_rx : ∀ w, decode w = .ok .rx ↔ w = 0x06 := by decide +kernel

/-- R136's allocating words are the allocating commands. -/
theorem allocates_iff {s : State} {w : BitVec 8} {x : Inputs} {rest : List HostEvent} {i : Instr}
    (hi : s.inbox = .command w x :: rest) (hd : decode w = .ok i) (k : Kind) :
    allocates k s = true ↔ AllocatesKind i s k := by
  have h1 : i = .seqB ↔ w = 0x04 := by rw [← decode_seqB, hd, Except.ok.injEq]
  have h2 : i = .seqU ↔ w = 0x14 := by rw [← decode_seqU, hd, Except.ok.injEq]
  have h3 : i = .tx ↔ w = 0x05 := by rw [← decode_tx, hd, Except.ok.injEq]
  unfold allocates AllocatesKind
  rw [hi, h1, h2, h3]
  cases k <;> cases hr : s.regs.role <;> simp [roleKind]

/-- One more step of a run (R206). -/
theorem runs_succ {n : Nat} {s t : State} : Runs (n + 1) s t ↔ ∃ u, step s = .next u ∧ Runs n u t := by
  unfold Runs
  have hc : Sys2Proof.core.step s = step s := rfl
  rw [Host.Core.run.eq_2 Sys2Proof.core s n]
  cases h : step s with
  | next u =>
    rw [h] at hc
    rw [hc]
    exact ⟨fun h => ⟨u, rfl, h⟩, fun ⟨_, hu, h⟩ => by cases hu; exact h⟩
  | fault r => rw [h] at hc; rw [hc]; exact ⟨nofun, nofun⟩
  | refused r => rw [h] at hc; rw [hc]; exact ⟨nofun, nofun⟩

end Sys2Proof.Machine
end

