-- ==== Sys2Proof/Tests/Slice0.lean ====
section
/-! SUPPORT. Small tests: the spec's own vectors (spec/95_test_vectors.md), the checks of WellFormed.lean, and for each
statement with hypotheses a witness that meets them together. -/

namespace Sys2Proof.Tests

open Sys2Proof.Machine

/-! ### Helpers -/

/-- A state just after a reset with entropy 0x12345678, under the spec's default values and `L = 14`. -/
def base : State := State.afterReset Config.default 0x12345678

/-- The same under preset `ESP_ROM_LE`. -/
def baseEr : State := { base with cfg := { Config.default with crc := CrcVariant.espRomLe } }

/-- A session paired as in vector R1. -/
def paired : State :=
  { base with regs := { base.regs with
      role := .paired, peerAddr := 0xAABBCCDDEEFF, deviceId := 2, clockOffset := 0xFFFFFFAC, stillBcast := false } }

/-- `s` with one command presented. -/
def present (w : BitVec 8) (x : Inputs) (s : State) : State := { s with inbox := [.command w x] }

def bytesIn (B : Bytes) : Inputs := { Inputs.none with bytes := B }
def encIn (seq : BitVec 16) (magic : BitVec 32) (p : Bytes) : Inputs :=
  { Inputs.none with seq := seq, magic := magic, payload := p }
def txIn (p : Bytes) : Inputs := { Inputs.none with payload := p }
def rxIn (B : Bytes) (src : Addr) (dm : Bool) (t0 : BitVec 32) : Inputs :=
  { Inputs.none with bytes := B, src := src, destMatch := dm, localTime := t0 }

/-- The last result returned by an outcome, if it is a next state. -/
def lastResult (o : Host.Outcome State Fault Refusal) : Option Result :=
  match o with
  | .next t => t.returned.getLast?
  | _ => none

/-- The registers of an outcome, if it is a next state. -/
def regsOf (o : Host.Outcome State Fault Refusal) : Option Registers :=
  match o with
  | .next t => some t.regs
  | _ => none

/-- The refusal of an outcome. -/
def refusalOf (o : Host.Outcome State Fault Refusal) : Option Refusal :=
  match o with
  | .refused r => some r
  | _ => none

/-- Whether an outcome is the next state `t`. -/
def isNext (o : Host.Outcome State Fault Refusal) (t : State) : Bool :=
  match o with
  | .next u => decide (u = t)
  | _ => false

theorem eq_next {o : Host.Outcome State Fault Refusal} {t : State} (h : isNext o t = true) : o = .next t := by
  unfold isNext at h
  split at h
  · rw [of_decide_eq_true h]
  · cases h

/-- Frames of section 2.2. -/
def v1 : Bytes := [0x00, 0x00, 0x00, 0x6E, 0x69, 0x78, 0x56, 0x34, 0x12, 0x00, 0x00, 0x00, 0x00, 0x00]
def v1Er : Bytes := [0x00, 0x00, 0x00, 0x19, 0xBE, 0x78, 0x56, 0x34, 0x12, 0x00, 0x00, 0x00, 0x00, 0x00]
def v2 : Bytes := [0x01, 0x00, 0x00, 0xBA, 0x10, 0xBE, 0xBA, 0xFE, 0xCA, 0x03, 0x10, 0x00, 0x00, 0x00]
def v6 : Bytes := [0x02, 0x00, 0x00, 0xAC, 0x9F, 0x78, 0x56, 0x34, 0x12, 0x00, 0x00, 0x00, 0x00, 0x00]
def v7 : Bytes := [0x01, 0x03, 0x00, 0x59, 0x19, 0xBE, 0xBA, 0xFE, 0xCA]
def v8 : Bytes := [0x01, 0xFF, 0xFF, 0xEB, 0x88, 0x01, 0x00, 0x00, 0x00, 0x00, 0xFF, 0xFF, 0xFF, 0xFF]
def v9 : Bytes := [0x01, 0xFF, 0xFF, 0x0B, 0xB8, 0x78, 0x56, 0x34, 0x12, 0x01, 0x02, 0x03, 0x04, 0x05]
def v12 : Bytes := [0x01, 0x01, 0x00, 0xA4, 0x99, 0x78, 0x56, 0x34, 0x12, 0xDE, 0xAD, 0xBE, 0xEF, 0x00]
def v16 : Bytes := [0x01, 0xFF, 0xFF, 0xC3, 0xCD, 0xBE, 0xBA, 0xFE, 0xCA, 0x00, 0x00, 0x00, 0x00, 0x00]

/-- The decoded fields of V2 (D2) and the results of R1. -/
def d2 : Decoded := { kind := .unicast, seq := 0x0000, magic := 0xCAFEBABE, payload := [0x03, 0x10, 0x00, 0x00, 0x00] }
def rxV2 (s : State) : State := present 0x06 (rxIn v2 0xAABBCCDDEEFF true 100) s

/-! ### Command words, bit by bit `RSV K OP` (R71, R72; section 2.10) -/

theorem test_decode_words :
    decode 0b00000000 = .ok .nop ∧ decode 0b00000001 = .ok .crc16 ∧ decode 0b00000010 = .ok .encB ∧
    decode 0b00010010 = .ok .encU ∧ decode 0b00000011 = .ok .dec ∧ decode 0b00000100 = .ok .seqB ∧
    decode 0b00010100 = .ok .seqU ∧ decode 0b00000101 = .ok .tx ∧ decode 0b00000110 = .ok .rx ∧
    decode 0b00000111 = .ok .tsadj ∧ decode 0b00001000 = .ok .status := by decide

theorem test_decode_refuses :
    ([0x09, 0x0F, 0x10, 0x11, 0x13, 0x15, 0x16, 0x17, 0x18, 0x19, 0x20, 0x22, 0x80, 0xFF] : List (BitVec 8)).all
      (fun w => (decode w).isOk == false) = true := by decide

theorem test_decodeTableWord :
    decodeTableWord 8 0x12 = some .encU ∧ decodeTableWord 8 0x00 = some .nop ∧ decodeTableWord 8 0x10 = none := by decide

/-! ### The checks of WellFormed.lean, each with a term it refuses -/

theorem test_config_wf : Config.default.wf = true := by decide
theorem test_config_short_frame : ({ Config.default with L := 13 } : Config).wf = false := by decide
theorem test_config_frame_over_nmax : ({ Config.default with L := 251 } : Config).wf = false := by decide
theorem test_config_frame_at_nmax : ({ Config.default with L := 250 } : Config).wf = true := by decide
theorem test_config_equal_kinds : ({ Config.default with kindUcast := 0x00 } : Config).wf = false := by decide
/-- The widths of R7, and `BCAST_ADDR` all ones at its width. -/
theorem test_parameter_widths :
    Config.addrW = 48 ∧ Config.devIdW = 16 ∧ Config.ofsW = 32 ∧ Config.bcastAddr = BitVec.allOnes Config.addrW := by decide
theorem test_inputs_long_bytes : ∀ i ∈ [Instr.crc16, .dec, .rx],
    (bytesIn (zeros 251)).wf Config.default i = false ∧ (bytesIn (zeros 250)).wf Config.default i = true := by
  decide +kernel
theorem test_inputs_payload_length : ∀ i ∈ [Instr.encB, .encU, .tx],
    (txIn (zeros 4)).wf Config.default i = false ∧ (txIn (zeros 6)).wf Config.default i = false ∧
    (txIn (zeros 5)).wf Config.default i = true := by decide

/-! ### CRC16 (section 2.1) -/

theorem test_crc_ccitt :
    crc16 CrcVariant.ccittFalse [] = 0xFFFF ∧ crc16 CrcVariant.ccittFalse [0x01] = 0xF1D1 ∧
    crc16 CrcVariant.ccittFalse (List.replicate 9 0xFF) = 0x32AE ∧ crc16 CrcVariant.ccittFalse (zeros 14) = 0xA96A := by
  decide +kernel

theorem test_crc_esp :
    crc16 CrcVariant.espRomLe [] = 0xFFFF ∧ crc16 CrcVariant.espRomLe [0x01] = 0xEE76 ∧
    crc16 CrcVariant.espRomLe (List.replicate 9 0xFF) = 0xC4AB ∧ crc16 CrcVariant.espRomLe (zeros 14) = 0xFFFF := by
  decide +kernel

theorem test_crc_tables :
    tableCcitt 0x01 = 0x1021 ∧ tableCcitt 0xFF = 0x1EF0 ∧ tableEsp 0x01 = 0x1189 ∧ tableEsp 0x80 = 0x8408 := by
  decide +kernel

theorem test_crc16_at_nmax :
    refusalOf (step (present 0x01 (bytesIn (zeros 251)) base)) = some .byteStringTooLong ∧
    (lastResult (step (present 0x01 (bytesIn (zeros 250)) base))).isSome = true := by decide +kernel

theorem test_crc16_check_string :
    lastResult (step (present 0x01 (bytesIn [0x31, 0x32, 0x33, 0x34, 0x35, 0x36, 0x37, 0x38, 0x39]) base)) =
      some (okWith (.crc 0x29B1)) := by decide +kernel

/-! ### ENC and DEC (sections 2.2, 2.3) -/

theorem test_encB_v1 :
    lastResult (step (present 0x02 (encIn 0x0000 0x12345678 (zeros 5)) base)) = some (okWith (.frame v1)) ∧
    lastResult (step (present 0x02 (encIn 0x0000 0x12345678 (zeros 5)) baseEr)) = some (okWith (.frame v1Er)) := by
  decide +kernel

theorem test_encU_v9 :
    lastResult (step (present 0x12 (encIn 0xFFFF 0x12345678 [0x01, 0x02, 0x03, 0x04, 0x05]) base)) =
      some (okWith (.frame v9)) ∧
    refusalOf (step (present 0x12 (encIn 0xFFFF 0x12345678 (zeros 6)) base)) = some .payloadWrongLength := by
  decide +kernel

theorem test_dec_ok :
    lastResult (step (present 0x03 (bytesIn v2) base)) = some (okWith (.decoded d2)) ∧
    lastResult (step (present 0x03 (bytesIn v7) base)) =
      some (okWith (.decoded { kind := .unicast, seq := 0x0003, magic := 0xCAFEBABE, payload := [] })) := by
  decide +kernel

theorem test_dec_raises :
    lastResult (step (present 0x03 (bytesIn []) base)) = some (raised .frameTooShort) ∧
    lastResult (step (present 0x03 (bytesIn (v2.take 8)) base)) = some (raised .frameTooShort) ∧
    lastResult (step (present 0x03 (bytesIn v6) base)) = some (raised .unknownFrameType) ∧
    lastResult (step (present 0x03 (bytesIn (v6.set 3 0xAD)) base)) = some (raised .checksumMismatch) ∧
    lastResult (step (present 0x03 (bytesIn v2) baseEr)) = some (raised .checksumMismatch) := by decide +kernel

/-! ### SEQ and TX (sections 2.5, 2.6) -/

theorem test_seqU_wraps :
    lastResult (step (present 0x14 Inputs.none { base with regs := { base.regs with seq1 := 0xFFFF } })) =
      some (okWith (.seq 0xFFFF)) ∧
    regsOf (step (present 0x14 Inputs.none { base with regs := { base.regs with seq1 := 0xFFFF } })) = some base.regs := by
  decide

theorem test_seqB_counts :
    regsOf (step (present 0x04 Inputs.none { base with regs := { base.regs with seq0 := 0x7FFF } })) =
      some { base.regs with seq0 := 0x8000 } := by decide

theorem test_tx_discovering :
    lastResult (step (present 0x05 (txIn (zeros 5)) base)) =
      some (okWith (.sent { frame := v1, dest := 0xFFFFFFFFFFFF, kind := .broadcast, seq := 0 })) ∧
    regsOf (step (present 0x05 (txIn (zeros 5)) base)) = some { base.regs with seq0 := 1 } := by decide +kernel

theorem test_tx_paired_wraps :
    lastResult (step (present 0x05 (txIn (zeros 5))
        { paired with regs := { paired.regs with seq1 := 0xFFFF, magic := 0xCAFEBABE } })) =
      some (okWith (.sent { frame := v16, dest := 0xAABBCCDDEEFF, kind := .unicast, seq := 0xFFFF })) ∧
    regsOf (step (present 0x05 (txIn (zeros 5)) { paired with regs := { paired.regs with seq1 := 0xFFFF } })) =
      some { paired.regs with seq1 := 0x0000 } := by decide +kernel

/-! ### RX, TSADJ, STATUS (sections 2.7 to 2.9) -/

theorem test_rx_pairs :
    lastResult (step (rxV2 base)) = some (rxWith .pairedNow d2) ∧ regsOf (step (rxV2 base)) = some paired.regs ∧
    regsOf (step (present 0x06 (rxIn v8 0x112233445566 true 0) base)) = some { base.regs with
      role := .paired, peerAddr := 0x112233445566, deviceId := 0xFFFF, clockOffset := 0xFFFFFFFF, stillBcast := false } ∧
    (regsOf (step (present 0x06 (rxIn v12 0xAABBCCDDEEFF true 0xFFFFFFFF) base))).map (·.clockOffset) = some 0x00EFBEAE := by
  decide +kernel

/-- R155, R156, R157 at the ends of their ranges: payload time, receive time and device byte. -/
theorem test_pairing_boundaries :
    (pairRegisters 0 0 [0x01, 0xFF, 0xFF, 0xFF, 0x7F] base.regs).clockOffset.toInt = 2 ^ 31 - 1 ∧
    (pairRegisters 0 0x80000000 [0x01, 0x00, 0x00, 0x00, 0x00] base.regs).clockOffset.toInt = -(2 ^ 31) ∧
    (pairRegisters 0 0x80000001 [0x01, 0x00, 0x00, 0x00, 0x00] base.regs).clockOffset = 0x7FFFFFFF ∧
    (pairRegisters 0 0 [0x01, 0x00, 0x00, 0x00, 0x00] base.regs).deviceId = 0x0000 ∧
    (pairRegisters 0 0 [0xFF, 0x00, 0x00, 0x00, 0x00] base.regs).deviceId = 0x00FE := by decide

theorem test_rx_writes_nothing :
    [(present 0x06 (rxIn v1 0xAABBCCDDEEFF true 0) base, Session.notUnicast),
     (present 0x06 (rxIn v2 0xAABBCCDDEEFF false 100) base, .notForUs), (rxV2 paired, .confirmed),
     (present 0x06 (rxIn v7 0xAABBCCDDEEFF true 0) base, .ignoredShort),
     (present 0x06 (rxIn (v2.take 8) 0xAABBCCDDEEFF true 0) base, .none),
     (present 0x06 (rxIn (v2.set 3 0xBB) 0xAABBCCDDEEFF true 0) paired, .none),
     (present 0x06 (rxIn v6 0xAABBCCDDEEFF true 0) base, .none)].all
      (fun (s, o) => (lastResult (step s)).map (·.session) == some (some o) && regsOf (step s) == some s.regs) = true := by
  decide +kernel

theorem test_tsadj :
    lastResult (step (present 0x07 { Inputs.none with t := 200 } paired)) = some (okWith (.time 116)) ∧
    lastResult (step (present 0x07 { Inputs.none with t := 0xFFFFFFF8 }
      { paired with regs := { paired.regs with clockOffset := 0x10 } })) = some (okWith (.time 0x00000008)) := by decide

theorem test_status :
    lastResult (step (present 0x08 Inputs.none paired)) = some (okWith (.view
      { role := .paired, peerAddr := 0xAABBCCDDEEFF, deviceId := 0x0002, clockOffset := 0xFFFFFFAC, stillBcast := false,
        seq0 := 0, seq1 := 0, magic := 0x12345678 })) := by decide

/-! ### NOP, illegal words, reset, the host's fetch (sections 2.10, 2.11) -/

theorem test_nop : isNext (step (present 0x00 Inputs.none paired)) { paired with returned := [okWith .nothing] } = true := by
  decide

theorem test_illegal_words :
    isNext (step (present 0x13 (bytesIn (zeros 251)) base)) { base with returned := [raised .illegalCommand] } = true ∧
    isNext (step (present 0x80 Inputs.none paired)) { paired with returned := [raised .illegalCommand] } = true := by
  decide +kernel

theorem test_reset_event :
    isNext (step { paired with inbox := [.reset 0xDEADBEEF] }) (State.afterReset Config.default 0xDEADBEEF) = true := by
  decide

theorem test_fetch_runs_each_word :
    [0x00, 0x01, 0x02, 0x12, 0x03, 0x04, 0x14, 0x05, 0x06, 0x07, 0x08].all
      (fun w => (lastResult (step (State.reset.withFetchWord 8 w))).isSome) = true := by decide +kernel

/-! ### Witnesses: each statement's hypotheses, met together -/

theorem witness_LegalWordsAndIllegalWords :
    base.cfg.wf = true ∧ (present 0x20 Inputs.none base).inbox = .command 0x20 Inputs.none :: [] ∧ IllegalWord 0x20 ∧
    IllegalWord 0x09 ∧ IllegalWord 0x10 := by decide

theorem witness_CommandWordsOfTheTable : 9 ≤ (0x09 : BitVec 8).toNat % 16 := by decide

theorem witness_StepRunsTheDecodedCommand :
    base.cfg.wf = true ∧ (present 0x01 (bytesIn [0x01]) base).inbox = .command 0x01 (bytesIn [0x01]) :: [] ∧
    decode 0x01 = .ok .crc16 := by decide

theorem witness_BadFrameLengthHasNoStep :
    ({ Config.default with L := 13 } : Config).L < 14 ∧ ({ Config.default with L := 251 } : Config).NMAX < 251 := by decide

theorem witness_EqualKindCodesHaveNoStep :
    ({ Config.default with kindUcast := 0x00 } : Config).kindBcast = ({ Config.default with kindUcast := 0x00 } : Config).kindUcast := by
  decide

theorem witness_NothingPresentedChangesNothing : base.cfg.wf = true ∧ base.inbox = [] := by decide

theorem witness_ResetEventSetsEveryRegister :
    paired.cfg.wf = true ∧ ({ paired with inbox := [.reset 7] } : State).inbox = .reset 7 :: [] := by decide

/-- For StepConsumesOneEvent, OnlyResetWritesMagic, SessionTransitions, StatusOutputsFollowTheSession and
StepKeepsSessionInvariant: a step of a command that is no reset and no pairing, from a state with the invariant. -/
theorem witness_step_of_a_command :
    SessionInv paired.regs ∧
    step (present 0x00 Inputs.none paired) = .next { paired with returned := [okWith .nothing] } ∧
    (∀ e rest, (present 0x00 Inputs.none paired).inbox ≠ .reset e :: rest) ∧
    (resultsSince paired { paired with returned := [okWith .nothing] }).all (fun r => !isPairing r) = true :=
  ⟨by decide, eq_next test_nop, nofun, by decide⟩

/-- The other cases of SessionTransitions: a reset, and nothing presented. Its pairing is `witness_pairing_step`. -/
theorem witness_SessionTransitions :
    step { paired with inbox := [.reset 9] } = .next (State.afterReset Config.default 9) ∧ step base = .next base :=
  ⟨eq_next (by decide), eq_next (by decide)⟩

theorem witness_pairing_step :
    (rxV2 base).inbox = .command 0x06 (rxIn v2 0xAABBCCDDEEFF true 100) :: [] ∧
    step (rxV2 base) = .next { paired with returned := [rxWith .pairedNow d2] } := ⟨rfl, eq_next (by decide +kernel)⟩

theorem witness_RefusedExactlyOnWrongLengths :
    base.cfg.wf = true ∧ refusalOf (step (present 0x05 (txIn (zeros 4)) base)) = some .payloadWrongLength ∧
    refusalOf (step (present 0x06 (bytesIn (zeros 251)) base)) = some .byteStringTooLong := by decide +kernel

/-- For ResultsAreNotReadBack: a step that answers, and one that refuses. -/
theorem witness_ResultsAreNotReadBack :
    step (present 0x00 Inputs.none paired) = .next { paired with returned := [okWith .nothing] } ∧
    refusalOf (step (present 0x05 (txIn (zeros 6)) base)) = some .payloadWrongLength :=
  ⟨eq_next test_nop, by decide +kernel⟩

theorem witness_RaiseWritesNoRegister :
    (present 0x06 (bytesIn []) base).inbox = .command 0x06 (bytesIn []) :: [] ∧
    step (present 0x06 (bytesIn []) base) = .next { base with returned := [rxRaised .frameTooShort] } ∧
    (rxRaised .frameTooShort).status ≠ .ok :=
  ⟨rfl, eq_next (by decide +kernel), by decide⟩

theorem witness_Crc16ReturnsTheCrc :
    (presented (present 0x01 (bytesIn (zeros 250)) base)).bytes.length ≤ base.cfg.NMAX ∧
    base.cfg.NMAX < (presented (present 0x01 (bytesIn (zeros 251)) base)).bytes.length := by decide +kernel

theorem witness_MemReadIsTheLittleEndianSum : 10 + 4 ≤ v2.length ∧ memRead v2 10 4 = 0x10 ∧ memRead v2 9 2 = 0x1003 := by
  decide

/-- Also for ReadAfterWriteReturnsTheValue, which has the same hypothesis. -/
theorem witness_MemWriteSetsItsBytesOnly :
    1 + 2 ≤ v2.length ∧ 2 < v2.length ∧ memWrite [0, 0, 0, 0] 1 2 0x1234 = [0, 0x34, 0x12, 0] := by decide

theorem witness_EncReturnsTheSealedFrame :
    base.cfg.wf = true ∧ (presented (present 0x02 (encIn 0 0 (zeros 5)) base)).payload.length = base.cfg.L - 9 ∧
    (presented (present 0x02 (encIn 0 0 (zeros 4)) base)).payload.length ≠ base.cfg.L - 9 := by decide

theorem witness_EncodedFrameCarriesItsChecksum :
    Instr.encB ∈ [Instr.encB, .encU] ∧ base.cfg.wf = true ∧
    exec .encB (present 0x02 (encIn 0 0x12345678 (zeros 5)) base) = .next { base with returned := [okWith (.frame v1)] } :=
  ⟨by decide, by decide, eq_next (by decide +kernel)⟩

theorem witness_DecReportsTheFirstFailingCheck :
    (v2.take 8).length < 9 ∧ ¬ v7.length < 9 ∧ v2.length ≤ base.cfg.NMAX ∧
    checksum Config.default (v2.set 3 0xBB) ≠ half (v2.set 3 0xBB) 3 ∧ checksum Config.default v6 = half v6 3 ∧
    v6.getD 0 0 ≠ 0x00 ∧ v6.getD 0 0 ≠ 0x01 ∧ v1.getD 0 0 = 0x00 ∧ v2.getD 0 0 = 0x01 := by decide +kernel

theorem witness_DecodeOfEncodeIsIdentity :
    (Instr.encU, Kind.unicast) ∈ [(Instr.encB, Kind.broadcast), (Instr.encU, Kind.unicast)] ∧ base.cfg.wf = true ∧
    (presented (present 0x12 (encIn 0xFFFF 0 (zeros 5)) base)).payload.length = base.cfg.L - 9 ∧
    (present 0x03 (bytesIn v2) base).cfg = base.cfg := by decide

/-- V2 decodes: the hypothesis of EncodeOfDecodeIsIdentity, SingleBitErrorIsDetected, RxDecodeStageIsDec and
RxPairsExactlyWhen, with the other hypotheses of the first two. -/
theorem witness_accepted_frame :
    exec .dec (present 0x03 (bytesIn v2) base) =
      .next (completed (present 0x03 (bytesIn v2) base) base.regs (okWith (.decoded d2))) ∧
    base.cfg.wf = true ∧ v2.length = base.cfg.L ∧ d2.payload.length = 5 ∧
    base.cfg.crc ∈ [CrcVariant.ccittFalse, CrcVariant.espRomLe] ∧ 13 < v2.length ∧
    flipBit v2 3 0 = v2.set 3 0xBB ∧ flipBit v2 13 7 = v2.set 13 0x80 :=
  ⟨eq_next (by decide +kernel), by decide⟩

/-- A frame that is refused by RX and DEC alike, and one that raises: the other cases of RxDecodeStageIsDec. -/
theorem witness_RxDecodeStageIsDec :
    refusalOf (exec .dec (present 0x03 (bytesIn (zeros 251)) base)) = some .byteStringTooLong ∧
    exec .dec (present 0x03 (bytesIn v6) base) =
      .next (completed (present 0x03 (bytesIn v6) base) base.regs (raised .unknownFrameType)) :=
  ⟨by decide +kernel, eq_next (by decide +kernel)⟩

theorem witness_CodecCommandsAreRepeatable :
    Instr.crc16 ∈ [Instr.crc16, .encB, .encU, .dec] ∧
    exec .crc16 (present 0x01 (bytesIn []) base) = .next { base with returned := [okWith (.crc 0xFFFF)] } ∧
    presented (present 0x01 (bytesIn []) { base with returned := [okWith (.crc 0xFFFF)] }) =
      presented (present 0x01 (bytesIn []) base) :=
  ⟨by decide, eq_next (by decide +kernel), rfl⟩

/-- Also for the third clause of NopReturnsOkOnly. -/
theorem witness_ReadOnlyCommandsFrame :
    Instr.nop ∈ [Instr.nop, .crc16, .encB, .encU, .dec, .tsadj, .status] ∧
    exec .nop base = .next { base with returned := [okWith .nothing] } := ⟨by decide, rfl⟩

theorem witness_SeqReturnsThenIncrements :
    ({ base.regs with seq0 := 0xFFFF } : Registers).seq0 = 0xFFFF ∧
    ({ base.regs with seq1 := 0xFFFF } : Registers).seq1 = 0xFFFF := by decide

theorem witness_TxBuildsTheFrameOfTheRole :
    base.cfg.wf = true ∧ (presented (present 0x05 (txIn (zeros 5)) base)).payload.length = base.cfg.L - 9 ∧
    base.regs.role = .discovering ∧ paired.cfg.wf = true ∧ paired.regs.role = .paired ∧
    (presented (present 0x05 (txIn (zeros 6)) base)).payload.length ≠ base.cfg.L - 9 := by decide

theorem witness_SequenceCommandsFrame :
    Instr.seqB ∈ [Instr.seqB, .seqU, .tx] ∧
    exec .seqB base = .next { base with regs := { base.regs with seq0 := 1 }, returned := [okWith (.seq 0)] } :=
  ⟨by decide, rfl⟩

/-- Two commands and no reset: the hypotheses of SequenceLaw, ConfigurationIsNeverWritten and PairingHappensAtMostOnce,
with the values R136 gives for them. -/
theorem witness_run_of_two_commands :
    NoReset 2 { base with inbox := [.command 0x04 Inputs.none, .command 0x04 Inputs.none] } ∧
    Runs 2 { base with inbox := [.command 0x04 Inputs.none, .command 0x04 Inputs.none] }
      { base with regs := { base.regs with seq0 := 2 }, returned := [okWith (.seq 0), okWith (.seq 1)] } ∧
    allocatedSeqs .broadcast 2 { base with inbox := [.command 0x04 Inputs.none, .command 0x04 Inputs.none] } = [0, 1] :=
  ⟨by decide, eq_next (by decide), by decide⟩

/-- A run from a reset state with events (ReachableStatesMeetTheSessionInvariant), and one in Paired without a reset
(PairedPersistsUntilReset). -/
theorem witness_runs_of_the_session :
    Runs 1 { State.afterReset Config.default 7 with inbox := [.command 0x14 Inputs.none] }
      { State.afterReset Config.default 7 with
        regs := { (Registers.atReset 7) with seq1 := 1 }, returned := [okWith (.seq 0)] } ∧
    NoReset 1 (present 0x00 Inputs.none paired) ∧ paired.regs.role = .paired ∧
    Runs 1 (present 0x00 Inputs.none paired) { paired with returned := [okWith .nothing] } :=
  ⟨eq_next (by decide), by decide, rfl, eq_next (by decide)⟩

/-- The second clause of ReachableStatesMeetTheSessionInvariant: a step from Paired to Discovering. -/
theorem witness_back_to_discovering :
    step { paired with inbox := [.reset 5] } = .next (State.afterReset Config.default 5) ∧ paired.regs.role = .paired ∧
    (State.afterReset Config.default 5).regs.role = .discovering := ⟨eq_next (by decide), rfl, rfl⟩

theorem witness_RxStepsTheSession :
    v2.length ≤ base.cfg.NMAX ∧ (presented (rxV2 base)).bytes = v2 ∧
    base.cfg.NMAX < (presented (present 0x06 (bytesIn (zeros 251)) base)).bytes.length ∧
    (sealedFrame Config.default 0x01 0 0 (zeros 4)).length = 13 ∧
    (lastResult (step (present 0x06 (rxIn (sealedFrame Config.default 0x01 0 0 (zeros 4)) 1 true 0) base))).map (·.session) =
      some (some .ignoredShort) := by decide +kernel

/-- A pairing: the hypotheses of PairingActionWrites, ClockOffsetIsTheSignedDifference, RxFrame, RxPairsExactlyWhen,
PairingRedirectsTx and TsadjFollowsThePeerClock, with device byte 3 and the difference 16 - 100 in range. -/
theorem witness_pairing :
    exec .rx (rxV2 base) = .next (completed (rxV2 base) paired.regs (rxWith .pairedNow d2)) ∧
    SessionInv base.regs ∧ base.cfg.wf = true ∧ 1 ≤ (d2.payload.getD 0 0).toNat ∧
    -(2 ^ 31) ≤ ((word d2.payload 1).toNat - (presented (rxV2 base)).localTime.toNat : Int) ∧
    ((word d2.payload 1).toNat - (presented (rxV2 base)).localTime.toNat : Int) < 2 ^ 31 ∧
    (presented (present 0x05 (txIn (zeros 5)) paired)).payload.length = paired.cfg.L - 9 :=
  ⟨eq_next (by decide +kernel), by decide, by decide, by decide, by decide, by decide, by decide⟩

/-- A pairing with device byte 0, the other clause of PairingActionWrites. -/
theorem witness_pairing_device_byte_zero :
    exec .rx (present 0x06 (rxIn v8 0x112233445566 true 0) base) =
      .next (completed (present 0x06 (rxIn v8 0x112233445566 true 0) base)
        { base.regs with role := .paired, peerAddr := 0x112233445566, deviceId := 0xFFFF, clockOffset := 0xFFFFFFFF,
                         stillBcast := false }
        (rxWith .pairedNow (fieldsOf .unicast v8))) ∧ (fieldsOf .unicast v8).payload.getD 0 0 = 0x00 :=
  ⟨eq_next (by decide +kernel), by decide⟩

theorem witness_TsadjAddsTheClockOffset : SessionInv base.regs ∧ base.regs.role = .discovering := by decide

end Sys2Proof.Tests
end

