-- ==== Sys2Proof/Proofs/Scope.lean ====
section
/-! SUPPORT. The statements of spec/00_scope.md: what a step runs, what it consumes and returns, and which configurations
have no step. -/

namespace Sys2Proof.Machine

/-- Every command that has a next state ends in `completed`: only its registers and its result are its own. -/
theorem exec_next_completed {i : Instr} {s t : State} (h : exec i s = .next t) :
    ∃ regs r, t = completed s regs r := by
  obtain ⟨-, r, ht, -⟩ | ⟨k, r, -, ht, -⟩ | ⟨-, -, d, -, ht⟩ := exec_next_cases h
  · exact ⟨_, _, ht⟩
  · exact ⟨_, _, ht⟩
  · exact ⟨_, _, ht⟩

/-- Under an accepted configuration a legal command word runs its command on the same state (R10, R71). -/
theorem step_of_decode_ok {s : State} {w : BitVec 8} {x : Inputs} {rest : List HostEvent} {i : Instr}
    (hw : s.cfg.wf = true) (hi : s.inbox = .command w x :: rest) (hd : decode w = .ok i) : step s = exec i s := by
  simp [step, configAccepted, hw, hi, hd]

/-- No configuration with a frame length outside R9's range is accepted. -/
theorem wf_eq_false_of_bad_length {c : Config} (h : c.L < 14 ∨ c.NMAX < c.L) : c.wf = false := by
  rw [Bool.eq_false_iff, ne_eq, wf_iff]
  rintro ⟨hmin, hmax, -⟩
  omega

/-- Settles O10, by cases on the event presented: a command, legal or not, completes with one result, the other events
return none. -/
theorem stepConsumesOneEvent : Obligations.StepConsumesOneEvent := by
  intro s t h
  obtain ⟨hi, ht⟩ | ⟨e, rest, hi, ht⟩ | ⟨w, x, rest, e, hi, -, ht⟩ | ⟨w, x, rest, i, hi, -, he⟩ := step_next_cases h
  · simp [ht, hi]
  · simp [ht, hi]
  · simp [ht, hi]
  · obtain ⟨regs, r, ht⟩ := exec_next_completed he
    simp [ht, hi]

/-- Settles O4: `decode` selects the arm of `step`, and the head of the inbox carries the operands. -/
theorem stepRunsTheDecodedCommand : Obligations.StepRunsTheDecodedCommand :=
  fun _ _ _ _ _ hw hi hd => ⟨step_of_decode_ok hw hi hd, presented_of_command hi⟩

/-- Settles O5: such a configuration is not accepted. -/
theorem badFrameLengthHasNoStep : Obligations.BadFrameLengthHasNoStep :=
  fun _ h => step_of_bad (wf_eq_false_of_bad_length h)

end Sys2Proof.Machine
end

/-! SUPPORT. The statements of spec/10_state.md: what a step does to the registers, the session invariant of R31 over steps
and runs, which registers each command leaves alone (R34), and that results are not held (R35). -/

namespace Sys2Proof.Machine

/-! ### The registers over one step -/

/-- What a step does to the registers: nothing; the reset values; one counter advanced; or, from Discovering, the pairing
action, and then `PAIRED_NOW` is returned. -/
theorem step_regs_cases {s t : State} (h : step s = .next t) :
    t.regs = s.regs ∨
    (∃ e rest, s.inbox = .reset e :: rest ∧ t.regs = Registers.atReset e) ∨
    (∃ k, t.regs = seqAdvance k s.regs) ∨
    (s.regs.role = .discovering ∧ (∃ src t0 p, t.regs = pairRegisters src t0 p s.regs) ∧
      ∃ d, t.returned = s.returned ++ [rxWith .pairedNow d]) := by
  obtain ⟨-, rfl⟩ | ⟨e, rest, hi, rfl⟩ | ⟨_, _, _, _, -, -, rfl⟩ | ⟨_, _, _, _, -, -, hx⟩ := step_next_cases h
  · exact .inl rfl
  · exact .inr (.inl ⟨e, rest, hi, rfl⟩)
  · exact .inl rfl
  · obtain ⟨-, _, rfl, -⟩ | ⟨k, _, -, rfl, -⟩ | ⟨-, hr, d, -, rfl⟩ := exec_next_cases hx
    · exact .inl rfl
    · exact .inr (.inr (.inl ⟨k, rfl⟩))
    · exact .inr (.inr (.inr ⟨hr, ⟨_, _, _, rfl⟩, d, rfl⟩))

/-! Advancing a counter writes no register beside the counters (R131). -/

section Advance
variable (k : Kind) (r : Registers)
@[simp] theorem seqAdvance_magic : (seqAdvance k r).magic = r.magic := seqSet_magic ..
@[simp] theorem seqAdvance_role : (seqAdvance k r).role = r.role := seqSet_role ..
@[simp] theorem seqAdvance_peerAddr : (seqAdvance k r).peerAddr = r.peerAddr := seqSet_peerAddr ..
@[simp] theorem seqAdvance_deviceId : (seqAdvance k r).deviceId = r.deviceId := seqSet_deviceId ..
@[simp] theorem seqAdvance_clockOffset : (seqAdvance k r).clockOffset = r.clockOffset := seqSet_clockOffset ..
@[simp] theorem seqAdvance_stillBcast : (seqAdvance k r).stillBcast = r.stillBcast := seqSet_stillBcast ..
end Advance

/-- Settles O15: of the four things a step does to the registers only the reset writes `MAGIC`. -/
theorem onlyResetWritesMagic : Obligations.OnlyResetWritesMagic := by
  intro s t h hno
  obtain hr | ⟨e, rest, hi, -⟩ | ⟨k, hr⟩ | ⟨-, ⟨_, _, _, hr⟩, -⟩ := step_regs_cases h
  · rw [hr]
  · exact absurd hi (hno e rest)
  · rw [hr, seqAdvance_magic]
  · rw [hr, pairRegisters_magic]

/-! ### The session invariant (R31) -/

theorem sessionInv_atReset (entropy : BitVec 32) : SessionInv (Registers.atReset entropy) :=
  ⟨⟨fun _ => rfl, fun _ => rfl⟩, fun _ => ⟨rfl, rfl, rfl⟩⟩

theorem sessionInv_seqAdvance {k : Kind} {r : Registers} (h : SessionInv r) : SessionInv (seqAdvance k r) := by
  simpa [SessionInv] using h

theorem sessionInv_pairRegisters (src : Addr) (t0 : BitVec 32) (p : Bytes) (r : Registers) :
    SessionInv (pairRegisters src t0 p r) := by
  simp [SessionInv]

/-- Settles O44: both states carry the registers of a reset. -/
theorem resetHasSessionInvariant : Obligations.ResetHasSessionInvariant :=
  ⟨fun _ entropy => sessionInv_atReset entropy, sessionInv_atReset _⟩

/-- Settles O43: a reset and a pairing establish the invariant, whatever held before, and the other steps leave the
registers it speaks of. -/
theorem stepKeepsSessionInvariant : Obligations.StepKeepsSessionInvariant := by
  intro s t hinv h
  obtain hr | ⟨e, _, -, hr⟩ | ⟨k, hr⟩ | ⟨-, ⟨src, t0, p, hr⟩, -⟩ := step_regs_cases h <;> rw [hr]
  · exact hinv
  · exact sessionInv_atReset e
  · exact sessionInv_seqAdvance hinv
  · exact sessionInv_pairRegisters src t0 p s.regs

/-- What every step keeps, every run keeps. -/
theorem runs_invariant {P : State → Prop} (hstep : ∀ s t, P s → step s = .next t → P t) {n : Nat} {s t : State}
    (h : Runs n s t) (hs : P s) : P t := by
  induction n generalizing s with
  | zero => exact next_inj h ▸ hs
  | succ n ih =>
    obtain ⟨u, hu, hrun⟩ := runs_succ.1 h
    exact ih hrun (hstep s u hs hu)

/-- R31's last clause: a step that ends in Discovering from Paired took a reset. -/
theorem reset_of_step_to_discovering {s t : State} (h : step s = .next t) (hs : s.regs.role = .paired)
    (ht : t.regs.role = .discovering) : ∃ e rest, s.inbox = .reset e :: rest := by
  obtain hr | ⟨e, rest, hi, -⟩ | ⟨k, hr⟩ | ⟨-, ⟨_, _, _, hr⟩, -⟩ := step_regs_cases h
  · simp [hr, hs] at ht
  · exact ⟨e, rest, hi⟩
  · simp [hr, hs] at ht
  · simp [hr] at ht

/-- Settles O45: the invariant holds just after reset and every step of the run keeps it; only a reset leaves Paired. -/
theorem reachableStatesMeetTheSessionInvariant : Obligations.ReachableStatesMeetTheSessionInvariant :=
  ⟨fun _ entropy _ _ _ h =>
    runs_invariant (P := fun s => SessionInv s.regs) stepKeepsSessionInvariant h (sessionInv_atReset entropy),
   fun _ _ => reset_of_step_to_discovering⟩

/-! ### The status outputs (R33) -/

theorem pairedOut_eq_one_iff (s : State) : pairedOut s = 1 ↔ s.regs.role = .paired := by
  unfold pairedOut
  cases s.regs.role <;> decide

/-- The status outputs are functions of `ROLE` and `PEER_ADDR`. -/
theorem statusOutputs_congr {s t : State} (hrole : t.regs.role = s.regs.role) (hpeer : t.regs.peerAddr = s.regs.peerAddr) :
    pairedOut t = pairedOut s ∧ peerAddressOut t = peerAddressOut s :=
  ⟨congrArg Role.code hrole, hpeer⟩

/-- Settles O52: with the reset excluded and no `PAIRED_NOW` returned, a step leaves `ROLE` and `PEER_ADDR`. -/
theorem statusOutputsFollowTheSession : Obligations.StatusOutputsFollowTheSession := by
  refine ⟨fun s => ⟨pairedOut_eq_one_iff s, rfl⟩, fun s t h hno hnp => ?_⟩
  obtain hr | ⟨e, rest, hi, -⟩ | ⟨k, hr⟩ | ⟨-, -, d, hret⟩ := step_regs_cases h
  · exact statusOutputs_congr (by rw [hr]) (by rw [hr])
  · exact absurd hi (hno e rest)
  · exact statusOutputs_congr (by simp [hr]) (by simp [hr])
  · simp [resultsSince, hret, isPairing, rxWith] at hnp

/-! ### What each command writes (R34) -/

/-- Settles O31: none of these commands allocates a sequence number, and none is RX. -/
theorem readOnlyCommandsFrame : Obligations.ReadOnlyCommandsFrame := by
  intro i s t hi h
  obtain ⟨-, r, ht, -⟩ | ⟨k, r, hk, -⟩ | ⟨rfl, -⟩ := exec_next_cases h
  · exact ⟨r, ht⟩
  · obtain ⟨rfl, -⟩ | ⟨rfl, -⟩ | ⟨rfl, -⟩ := hk <;> simp at hi
  · simp at hi

/-- Settles O34: these commands advance the counter of the kind they allocate, which for TX is the role's. -/
theorem sequenceCommandsFrame : Obligations.SequenceCommandsFrame := by
  intro i s t hi h
  obtain ⟨hni, -⟩ | ⟨k, r, hk, rfl, -⟩ | ⟨rfl, -⟩ := exec_next_cases h
  · exact absurd hi hni
  · obtain ⟨rfl, rfl⟩ | ⟨rfl, rfl⟩ | ⟨rfl, rfl⟩ := hk
    · exact ⟨_, r, .inl ⟨rfl, .inl rfl⟩⟩
    · exact ⟨_, r, .inr ⟨rfl, .inl rfl⟩⟩
    · cases hrole : s.regs.role with
      | discovering => exact ⟨_, r, .inl ⟨rfl, .inr ⟨rfl, rfl⟩⟩⟩
      | paired => exact ⟨_, r, .inr ⟨rfl, .inr ⟨rfl, rfl⟩⟩⟩
  · simp at hi

/-- The next states of RX: its decode stage raised, or its session stage ended with outcome `o` (R151). -/
theorem exec_rx_next_cases {s t : State} (h : exec .rx s = .next t) :
    (∃ e, t = completed s s.regs (rxRaised e)) ∨
    ∃ o d, t = completed s (sessionRegisters o (presented s) d.payload s.regs) (rxWith o d) := by
  simp only [exec, execRx, raiseStatus] at h
  split at h
  · cases h
  · split at h <;> cases h
    · exact .inl ⟨_, rfl⟩
    · exact .inr ⟨_, _, rfl⟩

/-- No outcome of the session stage moves a counter or `MAGIC` (R137, R155). -/
theorem sessionRegisters_counters_magic (o : Session) (x : Inputs) (p : Bytes) (r : Registers) :
    (sessionRegisters o x p r).seq0 = r.seq0 ∧ (sessionRegisters o x p r).seq1 = r.seq1 ∧
    (sessionRegisters o x p r).magic = r.magic := by
  cases o <;> exact ⟨rfl, rfl, rfl⟩

/-- Settles O41: RX raises with `NONE` and no write, or ends with its session outcome. -/
theorem rxFrame : Obligations.RxFrame := by
  intro s t h
  obtain ⟨e, ht⟩ | ⟨o, d, ht⟩ := exec_rx_next_cases h
  · exact ⟨_, _, ht, nofun, fun _ => rfl, rfl, rfl, rfl⟩
  · refine ⟨_, _, ht, nofun, fun ho => ?_, sessionRegisters_counters_magic o _ _ _⟩
    exact sessionRegisters_of_ne (fun heq => ho (congrArg some heq)) _ _ _

/-! ### Results are not held (R35) -/

section OperandsIgnoreReturned
variable (s : State) (l : List Result)
@[simp] theorem bytesOperand_returned : bytesOperand { s with returned := l } = bytesOperand s := rfl
@[simp] theorem payloadOperand_returned : payloadOperand { s with returned := l } = payloadOperand s := rfl
end OperandsIgnoreReturned

/-- The outcome `o` of a step from `s`, told with `l` in place of the results returned before it. -/
def replaceReturned (s : State) (l : List Result) (o : Host.Outcome State Fault Refusal) : Host.Outcome State Fault Refusal :=
  match o with
  | .next t => .next { t with returned := l ++ resultsSince s t }
  | .fault f => .fault f
  | .refused f => .refused f

section ReplaceReturned
variable (s : State) (l : List Result)
@[simp] theorem replaceReturned_refused (f : Refusal) : replaceReturned s l (.refused f) = .refused f := rfl
@[simp] theorem replaceReturned_next_of_eq {u : State} (h : u.returned = s.returned) :
    replaceReturned s l (.next u) = .next { u with returned := l } := by
  simp [replaceReturned, resultsSince, h]
@[simp] theorem replaceReturned_answer {u : State} (h : u.returned = s.returned) (r : Result) :
    replaceReturned s l (.next (answer r u)) = .next (answer r { u with returned := l }) := by
  simp [replaceReturned, resultsSince, answer, h]
end ReplaceReturned

/-- A command does the same over other returned results: it reads its operands, the registers and the configuration. -/
theorem exec_with_returned (i : Instr) (s : State) (l : List Result) :
    exec i { s with returned := l } = replaceReturned s l (exec i s) := by
  cases i with
  | nop => simp [exec, execNop]
  | seqB => simp [exec, execSeqB, sequenceCommand]
  | seqU => simp [exec, execSeqU, sequenceCommand]
  | tsadj => simp [exec, execTsadj]
  | status => simp [exec, execStatus]
  | crc16 => cases hb : bytesOperand s <;> simp [exec, execCrc16, hb]
  | encB => cases hp : payloadOperand s <;> simp [exec, execEncB, encodeCommand, hp]
  | encU => cases hp : payloadOperand s <;> simp [exec, execEncU, encodeCommand, hp]
  | tx => cases hp : payloadOperand s <;> simp [exec, execTx, hp]
  | dec =>
    cases hb : bytesOperand s with
    | error f => simp [exec, execDec, hb]
    | ok B => cases hd : decodeFrame s.cfg B <;> simp [exec, execDec, raiseStatus, hb, hd]
  | rx =>
    cases hb : bytesOperand s with
    | error f => simp [exec, execRx, hb]
    | ok B => cases hd : decodeFrame s.cfg B <;> simp [exec, execRx, raiseStatus, hb, hd]

/-- A step does the same over other returned results. -/
theorem step_with_returned (s : State) (l : List Result) :
    step { s with returned := l } = replaceReturned s l (step s) := by
  cases hw : s.cfg.wf with
  | false => rw [step_of_bad hw, replaceReturned_refused]; exact step_of_bad hw
  | true =>
    simp only [step, configAccepted, hw, if_true]
    split
    · simp [idle]
    · simp [takeReset]
    · split
      · exact exec_with_returned _ s l
      · simp [rejectWord, raiseStatus]

/-- A step only appends to the results returned. -/
theorem returned_eq_append_resultsSince {s t : State} (h : step s = .next t) :
    t.returned = s.returned ++ resultsSince s t := by
  obtain ⟨-, -, hret⟩ := stepConsumesOneEvent s t h
  split at hret
  · obtain ⟨r, hr⟩ := hret
    simp [resultsSince, hr]
  · simp [resultsSince, hret]

/-- Settles O13: the results a step adds are those it appends, and it does the same over any others. -/
theorem resultsAreNotReadBack : Obligations.ResultsAreNotReadBack := by
  refine fun s old => ⟨fun t h => ⟨_, returned_eq_append_resultsSince h, ?_⟩, fun r h => ?_⟩
  · rw [step_with_returned, h]; rfl
  · rw [step_with_returned, h]; rfl

/-! ### The codes -/

/-- Settles O53, by evaluating each code. -/
theorem codeValues : Obligations.CodeValues := by
  unfold Obligations.CodeValues
  decide

end Sys2Proof.Machine

/-! SUPPORT. The statements of spec/20_memory.md: MemRead and MemWrite byte by byte (R51, R52), the read after a write, and
that the codec commands hold nothing between two runs (R59). -/

namespace Sys2Proof.Machine

/-! ### MemRead and MemWrite (R51, R52) -/

/-- Settles O21, by induction on the number of bytes read: the lowest byte stands for itself, the others one byte up. -/
theorem memReadIsTheLittleEndianSum : Obligations.MemReadIsTheLittleEndianSum := by
  intro B off n h
  induction n generalizing off with
  | zero => rfl
  | succ n ih =>
    have hshift (i : Nat) : (B.getD (off + (i + 1)) 0).toNat * 2 ^ (8 * (i + 1)) =
        2 ^ 8 * ((B.getD (off + 1 + i) 0).toNat * 2 ^ (8 * i)) := by
      rw [← Nat.add_assoc, Nat.add_right_comm, Nat.mul_succ, Nat.pow_add]
      ring
    rw [memRead_succ B off n (by omega), ih (off + 1) (by omega), Finset.sum_range_succ', Finset.mul_sum]
    simp only [hshift, Nat.add_zero, Nat.mul_zero, Nat.pow_zero, Nat.mul_one, Nat.add_comm]

/-- R52: byte `i` of the bytes of `v` holds the bits from `8 * i` up. -/
theorem getElem?_leBytes {n i : Nat} (v : Nat) (h : i < n) :
    (leBytes n v)[i]? = some (BitVec.ofNat 8 (v >>> (8 * i))) := by
  induction n generalizing v i with
  | zero => omega
  | succ n ih =>
    cases i with
    | zero => rfl
    | succ i =>
      rw [leBytes, List.getElem?_cons_succ, ih (v / 2 ^ 8) (by omega), ← Nat.shiftRight_eq_div_pow, ← Nat.shiftRight_add,
        Nat.mul_succ, Nat.add_comm 8]

/-- Settles O22: inside the place written stands a byte of the value, elsewhere the byte from before. -/
theorem memWriteSetsItsBytesOnly : Obligations.MemWriteSetsItsBytesOnly := by
  intro B off n v i h _
  refine ⟨length_memWrite B off n v, ?_⟩
  rw [memWrite, List.getD_eq_getElem?_getD, getElem?_putBytes B off _ (by simpa using h), length_leBytes]
  split
  case isTrue hi => rw [getElem?_leBytes v (by omega), Option.getD_some]
  case isFalse => rw [List.getD_eq_getElem?_getD]

/-- The bytes put into a string stand at their place in it. -/
theorem take_drop_putBytes (B : Bytes) (off : Nat) (bs : Bytes) (h : off + bs.length ≤ B.length) :
    ((putBytes B off bs).drop off).take bs.length = bs := by
  apply List.ext_getElem?
  intro i
  by_cases hi : i < bs.length
  · rw [List.getElem?_take_of_lt hi, List.getElem?_drop, getElem?_putBytes B off bs h, if_pos (by omega),
      Nat.add_sub_cancel_left]
  · rw [List.getElem?_take_eq_none (by omega), List.getElem?_eq_none (by omega)]

/-- Settles O23: the bytes read are the bytes written, and they are worth the value reduced to their width. -/
theorem readAfterWriteReturnsTheValue : Obligations.ReadAfterWriteReturnsTheValue := by
  intro B off n v h
  have hread := take_drop_putBytes B off (leBytes n v) (by simpa using h)
  rw [length_leBytes] at hread
  rw [memRead, memWrite, hread, leValue_leBytes]

/-! ### The codec commands are functions of their operands and the configuration (R59) -/

/-- A result answered with no register written can be answered from any state in the same way. -/
theorem next_answer_congr {s : State} {a r : Result}
    (h : (.next (answer a s) : Host.Outcome State Fault Refusal) = .next (completed s s.regs r)) (s' : State) :
    (.next (answer a s') : Host.Outcome State Fault Refusal) = .next (completed s' s'.regs r) := by
  obtain ⟨-, rfl⟩ := completed_inj (next_inj h)
  rfl

section SameInputs
variable {s s' : State} (hcfg : s'.cfg = s.cfg) (hin : presented s' = presented s)
include hcfg hin

theorem bytesOperand_congr : bytesOperand s' = bytesOperand s := by
  simp only [bytesOperand, hcfg, hin]

theorem payloadOperand_congr : payloadOperand s' = payloadOperand s := by
  simp only [payloadOperand, hcfg, hin]

theorem encodeCommand_completed_congr {k : Kind} {r : Result}
    (h : encodeCommand k s = .next (completed s s.regs r)) : encodeCommand k s' = .next (completed s' s'.regs r) := by
  simp only [encodeCommand, payloadOperand_congr hcfg hin, hcfg, hin] at h ⊢
  cases hp : payloadOperand s with
  | error f => simp [hp] at h
  | ok p => simp only [hp] at h ⊢; exact next_answer_congr h s'

/-- CRC16, ENC and DEC return in one state what they return in any other with the same operands and configuration. -/
theorem exec_codec_completed_congr {i : Instr} {r : Result} (hi : i ∈ [.crc16, .encB, .encU, .dec])
    (h : exec i s = .next (completed s s.regs r)) : exec i s' = .next (completed s' s'.regs r) := by
  simp only [List.mem_cons, List.not_mem_nil, or_false] at hi
  obtain rfl | rfl | rfl | rfl := hi
  · simp only [exec, execCrc16, bytesOperand_congr hcfg hin, hcfg] at h ⊢
    cases hb : bytesOperand s with
    | error f => simp [hb] at h
    | ok B => simp only [hb] at h ⊢; exact next_answer_congr h s'
  · exact encodeCommand_completed_congr hcfg hin h
  · exact encodeCommand_completed_congr hcfg hin h
  · simp only [exec, execDec, raiseStatus, bytesOperand_congr hcfg hin, hcfg] at h ⊢
    cases hb : bytesOperand s with
    | error f => simp [hb] at h
    | ok B =>
      cases hd : decodeFrame s.cfg B with
      | error e => simp only [hb, hd] at h ⊢; exact next_answer_congr h s'
      | ok d => simp only [hb, hd] at h ⊢; exact next_answer_congr h s'

end SameInputs

/-- Settles O30: the first run ended in `completed` with the registers it found and result `r`, and the second run has the
same operands and configuration. -/
theorem codecCommandsAreRepeatable : Obligations.CodecCommandsAreRepeatable := by
  intro i s t s' r hi h hret _ hcfg hin
  have hsub : [Instr.crc16, .encB, .encU, .dec] ⊆ [.nop, .crc16, .encB, .encU, .dec, .tsadj, .status] := by decide
  obtain ⟨r', rfl⟩ := readOnlyCommandsFrame i s t (hsub hi) h
  obtain rfl : r' = r := by simpa using hret
  exact exec_codec_completed_congr (s := s) hcfg hin hi h

end Sys2Proof.Machine

/-! SUPPORT. The statements of spec/30_encoding.md: the fields of a command word, the words of R72 and R73 against the
decoder, and the words R75 calls illegal. -/

namespace Sys2Proof.Machine

/-! ### The fields of a command word (R71) -/

section Fields
variable (w : BitVec 8)

theorem toNat_fieldOp : (fieldOp w).toNat = w.toNat % 16 := by simp [fieldOp]

theorem toNat_fieldK : (fieldK w).toNat = w.toNat / 16 % 2 := by simp [fieldK, Nat.shiftRight_eq_div_pow]

theorem toNat_fieldRsv : (fieldRsv w).toNat = w.toNat / 32 := by
  have := w.isLt
  rw [fieldRsv, BitVec.extractLsb'_toNat, Nat.shiftRight_eq_div_pow]
  omega

/-- A word is its three fields side by side. -/
theorem append_fields : fieldRsv w ++ fieldK w ++ fieldOp w = w := by
  rw [fieldRsv, fieldK, fieldOp, BitVec.extractLsb'_append_extractLsb'_eq_extractLsb' (by rfl),
    BitVec.extractLsb'_append_extractLsb'_eq_extractLsb' (by rfl), BitVec.extractLsb'_eq_self]

end Fields

/-- With the reserved bits 0 (R74), `K` and `OP` make the whole word. -/
theorem commandWord_eq_of_fields {w : BitVec 8} {k : BitVec 1} {op : BitVec 4} (hr : fieldRsv w = 0)
    (hk : fieldK w = k) (ho : (fieldOp w).toNat = op.toNat) : commandWord k op = w := by
  rw [commandWord, ← hr, ← hk, ← BitVec.eq_of_toNat_eq ho, append_fields]

/-- R75's three causes, field by field. -/
theorem illegalWord_iff_fields (w : BitVec 8) :
    IllegalWord w ↔ 9 ≤ (fieldOp w).toNat ∨ fieldRsv w ≠ 0 ∨ fieldK w = 1 ∧ fieldOp w ≠ 2 ∧ fieldOp w ≠ 4 := by
  simp [IllegalWord, ← BitVec.toNat_inj, toNat_fieldOp, toNat_fieldK, toNat_fieldRsv]

/-! ### The decoder against the words of the commands -/

/-- Every command's word is well formed and decodes to it. -/
theorem encoding_statement (i : Instr) : Laws.Encoding.Statement i := by
  cases i with
  | nop => exact Laws.Encoding.nop
  | crc16 => exact Laws.Encoding.crc16
  | encB => exact Laws.Encoding.encB
  | encU => exact Laws.Encoding.encU
  | dec => exact Laws.Encoding.dec
  | seqB => exact Laws.Encoding.seqB
  | seqU => exact Laws.Encoding.seqU
  | tx => exact Laws.Encoding.tx
  | rx => exact Laws.Encoding.rx
  | tsadj => exact Laws.Encoding.tsadj
  | status => exact Laws.Encoding.status

theorem decode_encode (i : Instr) : decode (encode i) = .ok i := by
  obtain ⟨-, -, -, hd⟩ := encoding_statement i
  exact hd

/-- No command's word is illegal (R72 to R74). -/
theorem not_illegalWord_encode (i : Instr) : ¬ IllegalWord (encode i) := by
  obtain ⟨hr, ho, hk, -⟩ := encoding_statement i
  rw [illegalWord_iff_fields]
  rintro (h | h | ⟨h, h2, h4⟩)
  · omega
  · exact h hr
  · exact (hk h).elim h2 h4

/-- What the decoder's answer to `w` claims: a command's word is `w`, a refusal is for an illegal word. -/
def AnswerIsRight (w : BitVec 8) : Except Illegal Instr → Prop
  | .ok i => encode i = w
  | .error _ => IllegalWord w

/-- A command that `K` does not select between has the word with `K = 0`; with `K = 1` that word is illegal (R73, R75). -/
theorem answerIsRight_withoutKind {w : BitVec 8} {i : Instr} (op : BitVec 4) (hr : fieldRsv w = 0)
    (ho : (fieldOp w).toNat = op.toNat) (hi : encode i = commandWord 0 op) (hop : op ≠ 2 ∧ op ≠ 4) :
    AnswerIsRight w (withoutKind (fieldK w) i) := by
  unfold withoutKind
  split
  case isTrue hk => exact hi.trans (commandWord_eq_of_fields hr hk ho)
  case isFalse hk =>
    have hk1 := (BitVec.eq_zero_or_eq_one _).resolve_left hk
    exact (illegalWord_iff_fields w).2 (.inr (.inr ⟨hk1, BitVec.eq_of_toNat_eq ho ▸ hop⟩))

/-- On ENC and SEQ, `K` selects the kind (R73). -/
theorem answerIsRight_ofKind {w : BitVec 8} {b u : Instr} (op : BitVec 4) (hr : fieldRsv w = 0)
    (ho : (fieldOp w).toNat = op.toNat) (hb : encode b = commandWord 0 op) (hu : encode u = commandWord 1 op) :
    AnswerIsRight w (.ok (if fieldK w = 0 then b else u)) := by
  split
  case isTrue hk => exact hb.trans (commandWord_eq_of_fields hr hk ho)
  case isFalse hk =>
    have hk1 := (BitVec.eq_zero_or_eq_one _).resolve_left hk
    exact hu.trans (commandWord_eq_of_fields hr hk1 ho)

/-- The decoder, by its cases: `RSV`, then the operation. -/
theorem answerIsRight_decode (w : BitVec 8) : AnswerIsRight w (decode w) := by
  unfold decode
  split
  case isTrue hr => exact (illegalWord_iff_fields w).2 (.inr (.inl hr))
  case isFalse hr =>
    have hr := not_not.1 hr
    split
    case h_1 ho => exact answerIsRight_withoutKind 0 hr ho rfl (by decide)
    case h_2 ho => exact answerIsRight_withoutKind 1 hr ho rfl (by decide)
    case h_3 ho => exact answerIsRight_ofKind 2 hr ho rfl rfl
    case h_4 ho => exact answerIsRight_withoutKind 3 hr ho rfl (by decide)
    case h_5 ho => exact answerIsRight_ofKind 4 hr ho rfl rfl
    case h_6 ho => exact answerIsRight_withoutKind 5 hr ho rfl (by decide)
    case h_7 ho => exact answerIsRight_withoutKind 6 hr ho rfl (by decide)
    case h_8 ho => exact answerIsRight_withoutKind 7 hr ho rfl (by decide)
    case h_9 ho => exact answerIsRight_withoutKind 8 hr ho rfl (by decide)
    case h_10 => exact (illegalWord_iff_fields w).2 (.inl (by simp only [imp_false] at *; omega))

/-- Settles O3: the word of a command decodes to it, and the decoder answers a word with no other word's command. -/
theorem decodeInvertsEncode : Obligations.DecodeInvertsEncode := by
  intro w i
  constructor
  · intro h
    have := answerIsRight_decode w
    rwa [h] at this
  · rintro rfl
    exact decode_encode i

/-- The decoder refuses the illegal words and no others (R75). -/
theorem decode_error_iff (w : BitVec 8) : (∃ e, decode w = .error e) ↔ IllegalWord w := by
  constructor
  · rintro ⟨e, he⟩
    have := answerIsRight_decode w
    rwa [he] at this
  · intro hw
    cases hd : decode w with
    | error e => exact ⟨e, rfl⟩
    | ok i =>
      obtain rfl := (decodeInvertsEncode w i).1 hd
      exact absurd hw (not_illegalWord_encode i)

/-- Settles O1: the words are those of `encode`, and an operation of 9 or more makes a word illegal. -/
theorem commandWordsOfTheTable : Obligations.CommandWordsOfTheTable :=
  ⟨decode_encode .nop, decode_encode .crc16, decode_encode .encB, decode_encode .encU, decode_encode .dec,
    decode_encode .seqB, decode_encode .seqU, decode_encode .tx, decode_encode .rx, decode_encode .tsadj,
    decode_encode .status, fun w h => (decode_error_iff w).2 (.inl h)⟩

/-! ### The legal words, and a step with an illegal one -/

/-- The commands, in the order R75 lists their words. -/
def allCommands : List Instr := [.nop, .crc16, .encB, .encU, .dec, .seqB, .seqU, .tx, .rx, .tsadj, .status]

theorem mem_allCommands (i : Instr) : i ∈ allCommands := by cases i <;> decide

/-- R75: the legal words are the words of the commands. -/
theorem exists_decode_ok_iff (w : BitVec 8) : (∃ i, decode w = .ok i) ↔ w ∈ allCommands.map encode := by
  simp [decodeInvertsEncode w _, mem_allCommands]

/-- R181: under an accepted configuration a word the decoder refuses raises `IllegalCommand` and writes no register. -/
theorem step_of_decode_error {s : State} {w : BitVec 8} {x : Inputs} {rest : List HostEvent} {e : Illegal}
    (hw : s.cfg.wf = true) (hi : s.inbox = .command w x :: rest) (hd : decode w = .error e) :
    step s = .next (completed s s.regs (raised .illegalCommand)) := by
  simp only [step, configAccepted, hw, hi, hd, if_true]
  rfl

/-- Settles O2: the refused words are the illegal ones, the others the words of the commands; the 256 words are counted by
evaluation, and a refused word is rejected before its operands are read. -/
theorem legalWordsAndIllegalWords : Obligations.LegalWordsAndIllegalWords := by
  refine ⟨decode_error_iff, exists_decode_ok_iff, by decide +kernel, fun s w x rest hw hi hill => ?_⟩
  obtain ⟨e, he⟩ := (decode_error_iff w).2 hill
  exact step_of_decode_error hw hi he

end Sys2Proof.Machine


/-! SUPPORT. The statements of spec/40_frame_codec.md: the CRC and its table forms, the frame ENC builds, what DEC answers,
and that the two are inverse to each other (R113). -/

namespace Sys2Proof.Machine

/-! ### Runs keep the configuration (R103) -/

/-- Settles O11: every step keeps the configuration, so every run does. -/
theorem configurationIsNeverWritten : Obligations.ConfigurationIsNeverWritten := by
  intro n s t h
  refine runs_invariant (P := fun u => u.cfg = s.cfg) (fun u u' hu hstep => ?_) h rfl
  obtain ⟨-, hcfg, -⟩ := stepConsumesOneEvent u u' hstep
  exact hcfg.trans hu

/-! ### Reflection (R100) -/

section Reflect
variable {n : Nat} (x y : BitVec n)

@[simp] theorem reflect_reflect : reflect (reflect x) = x := BitVec.reverse_reverse_eq

theorem reflect_injective : Function.Injective (reflect (n := n)) := Function.LeftInverse.injective reflect_reflect

theorem getLsbD_reflect {i : Nat} (hi : i < n) : (reflect x).getLsbD i = x.getLsbD (n - 1 - i) := by
  rw [reflect, BitVec.getLsbD_reverse, BitVec.getMsbD_eq_getLsbD, decide_eq_true hi, Bool.true_and]

theorem reflect_xor : reflect (x ^^^ y) = reflect x ^^^ reflect y := by
  apply BitVec.eq_of_getLsbD_eq
  intro i hi
  simp only [BitVec.getLsbD_xor, getLsbD_reflect _ hi]

theorem reflect_ushiftRight (k : Nat) : reflect (x >>> k) = reflect x <<< k := by
  apply BitVec.eq_of_getLsbD_eq
  intro i hi
  rw [getLsbD_reflect _ hi, BitVec.getLsbD_ushiftRight, BitVec.getLsbD_shiftLeft]
  by_cases hk : i < k
  · simp [hk, BitVec.getLsbD_of_ge x (k + (n - 1 - i)) (by omega)]
  · rw [getLsbD_reflect _ (by omega), show n - 1 - (i - k) = k + (n - 1 - i) by omega]
    simp [hk, hi]

end Reflect

/-! ### The table forms (R102) -/

/-- Steps that shift only zeros out of the register are a shift. -/
theorem crcSteps_of_lt (poly : BitVec 16) {n : Nat} {x : BitVec 16} (h : x.toNat * 2 ^ n < 2 ^ 16) :
    crcSteps poly n x = x <<< n := by
  induction n generalizing x with
  | zero => simp [crcSteps]
  | succ n ih =>
    have hpos := Nat.two_pow_pos n
    have hlt : x.toNat * 2 * 2 ^ n < 2 ^ 16 := by rwa [Nat.mul_assoc, ← Nat.pow_succ']
    have hx : x.toNat * 2 < 2 ^ 16 := Nat.lt_of_le_of_lt (Nat.le_mul_of_pos_right _ hpos) hlt
    have htop : x.getLsbD 15 = false := Nat.testBit_lt_two_pow (by omega)
    have hnat : (x <<< 1).toNat = x.toNat * 2 := by
      rw [BitVec.toNat_shiftLeft, Nat.shiftLeft_eq, Nat.mod_eq_of_lt (by simpa using hx), Nat.pow_one]
    rw [crcSteps, crcStep, htop, if_neg Bool.false_ne_true, ih (by rwa [hnat]), ← BitVec.shiftLeft_add, Nat.add_comm]

/-- Eight steps shift the low byte up and turn the high byte into a table entry. -/
theorem crcSteps_eight_eq (poly x : BitVec 16) :
    crcSteps poly 8 x = (x <<< 8) ^^^ crcSteps poly 8 (((x >>> 8).setWidth 8).setWidth 16 <<< 8) := by
  have hsplit : x = (x.setWidth 8).setWidth 16 ^^^ ((x >>> 8).setWidth 8).setWidth 16 <<< 8 := by
    ext i hi
    by_cases h8 : i < 8
    · simp [h8, hi]
    · simp [h8, hi, show 8 + (i - 8) = i by omega, show i - 8 < 8 by omega]
  have hlow : crcSteps poly 8 ((x.setWidth 8).setWidth 16) = x <<< 8 := by
    rw [crcSteps_of_lt]
    · ext i hi
      by_cases h8 : i < 8
      · simp [h8]
      · simp [h8, show i - 8 < 8 by omega, BitVec.getLsbD_eq_getElem (show i - 8 < 16 by omega)]
    · have := (x.setWidth 8).isLt
      rw [BitVec.toNat_setWidth]
      omega
  conv_lhs => rw [hsplit, crcSteps_xor, hlow]

/-- R102's table form, for any variant: the register moves up one byte, and the high byte and the next input byte select
the entry. -/
theorem crcByte_eq_table (v : CrcVariant) (reg : BitVec 16) (b : Byte) :
    crcByte v reg b = (reg <<< 8) ^^^
      crcSteps v.poly 8 (((reg >>> 8).setWidth 8 ^^^ (if v.refin then reflect b else b)).setWidth 16 <<< 8) := by
  rw [crcByte, crcSteps_eight_eq]
  generalize (if v.refin then reflect b else b) = b'
  have hlow : (reg ^^^ b'.setWidth 16 <<< 8) <<< 8 = reg <<< 8 := by
    rw [BitVec.shiftLeft_xor_distrib, ← BitVec.shiftLeft_add, BitVec.shiftLeft_eq_zero (show 16 ≤ 8 + 8 by decide),
      BitVec.xor_zero]
  have hhigh : ((reg ^^^ b'.setWidth 16 <<< 8) >>> 8).setWidth 8 = (reg >>> 8).setWidth 8 ^^^ b' := by
    ext i hi
    simp [show 8 + i < 16 by omega, hi]
  rw [hlow, hhigh]

/-- The right-shifting step is R100's step on the reflected register. -/
theorem reflect_rightStep (x : BitVec 16) : reflect (rightStep x) = crcStep 0x1021 (reflect x) := by
  have htop : (reflect x).getLsbD 15 = x.getLsbD 0 := getLsbD_reflect x (by decide)
  have hpoly : reflect (0x8408 : BitVec 16) = 0x1021 := by decide
  rw [rightStep, crcStep, htop, ← reflect_ushiftRight, ← hpoly, ← reflect_xor, apply_ite reflect]

theorem reflect_tableEsp (i : Byte) : reflect (tableEsp i) = crcSteps 0x1021 8 (reflect (i.setWidth 16)) := by
  simp only [tableEsp, reflect_rightStep, crcSteps]

/-- The reflected high byte of a word is its low byte. -/
theorem setWidth_shiftLeft_reflect (y : Byte) : (reflect y).setWidth 16 <<< 8 = reflect (y.setWidth 16) := by
  apply BitVec.eq_of_getLsbD_eq
  intro i hi
  rw [getLsbD_reflect _ hi, BitVec.getLsbD_shiftLeft, BitVec.getLsbD_setWidth, BitVec.getLsbD_setWidth]
  by_cases h8 : i < 8
  · simp [h8, BitVec.getLsbD_of_ge y (16 - 1 - i) (by omega)]
  · rw [getLsbD_reflect _ (by omega), show 8 - 1 - (i - 8) = 16 - 1 - i by omega]
    simp [h8, hi, show i - 8 < 16 by omega, show 15 - i < 16 by omega]

theorem setWidth_ushiftRight_reflect (r : BitVec 16) : (reflect r >>> 8).setWidth 8 = reflect (r.setWidth 8) := by
  apply BitVec.eq_of_getLsbD_eq
  intro i hi
  rw [getLsbD_reflect _ hi, BitVec.getLsbD_setWidth, BitVec.getLsbD_ushiftRight, getLsbD_reflect _ (by omega),
    BitVec.getLsbD_setWidth, show 16 - 1 - (8 + i) = 8 - 1 - i by omega]
  simp [hi, show 7 - i < 8 by omega]

/-- One byte of the right-shifting form, on the reflected register. -/
theorem reflect_tableEsp_xor (r : BitVec 16) (b : Byte) :
    reflect (tableEsp ((r ^^^ b.setWidth 16).setWidth 8) ^^^ (r >>> 8)) = crcByte CrcVariant.espRomLe (reflect r) b := by
  have hlow : (r ^^^ b.setWidth 16).setWidth 8 = r.setWidth 8 ^^^ b := by
    rw [BitVec.setWidth_xor, BitVec.setWidth_setWidth_of_le _ (by decide), BitVec.setWidth_eq]
  rw [crcByte_eq_table, reflect_xor, reflect_tableEsp, reflect_ushiftRight, hlow, setWidth_ushiftRight_reflect,
    show (if CrcVariant.espRomLe.refin then reflect b else b) = reflect b from rfl, ← reflect_xor,
    setWidth_shiftLeft_reflect, BitVec.xor_comm]
  rfl

/-- The right-shifting table form, from any register. -/
def tableEspBytes (r : BitVec 16) (B : Bytes) : BitVec 16 :=
  B.foldl (fun reg b => tableEsp ((reg ^^^ b.setWidth 16).setWidth 8) ^^^ (reg >>> 8)) r

theorem tableCrcEsp_eq (B : Bytes) : tableCrcEsp B = tableEspBytes 0x0000 B ^^^ 0xFFFF := rfl

theorem reflect_tableEspBytes (r : BitVec 16) (B : Bytes) :
    reflect (tableEspBytes r B) = crcBytes CrcVariant.espRomLe (reflect r) B := by
  induction B generalizing r with
  | nil => rfl
  | cons b B ih => rw [tableEspBytes, List.foldl_cons, ← tableEspBytes, ih, reflect_tableEsp_xor, crcBytes_cons]

theorem tableCrcEsp_eq_crc16 (B : Bytes) : tableCrcEsp B = crc16 CrcVariant.espRomLe B := by
  have hzero : reflect (0x0000 : BitVec 16) = 0x0000 := by decide
  rw [tableCrcEsp_eq, ← reflect_reflect (tableEspBytes _ B), reflect_tableEspBytes, hzero]
  rfl

/-- One byte of the left-shifting form. -/
theorem tableCcitt_xor (reg : BitVec 16) (b : Byte) :
    (reg <<< 8) ^^^ tableCcitt ((reg >>> 8).setWidth 8 ^^^ b) = crcByte CrcVariant.ccittFalse reg b :=
  (crcByte_eq_table CrcVariant.ccittFalse reg b).symm

theorem tableCrcCcitt_eq_crc16 (B : Bytes) : tableCrcCcitt B = crc16 CrcVariant.ccittFalse B := by
  simp only [tableCrcCcitt, tableCcitt_xor]
  exact BitVec.xor_zero.symm

/-- Settles O19, byte by byte: the left-shifting form is R100's loop, the right-shifting one that loop on the reflected
register. -/
theorem tableFormsEqualTheBitwiseCrc : Obligations.TableFormsEqualTheBitwiseCrc :=
  ⟨tableCrcCcitt_eq_crc16, tableCrcEsp_eq_crc16⟩

/-! ### Zero bytes and the check values (R101, R104, R115) -/

theorem crc16_nil (v : CrcVariant) : crc16 v [] = (if v.refout then v.init.reverse else v.init) ^^^ v.xorout := rfl

/-- Under `ESP_ROM_LE` the register starts at zero, and a zero byte leaves it there. -/
theorem crcBytes_espRomLe_zeros (k : Nat) : crcBytes CrcVariant.espRomLe 0 (List.replicate k 0x00) = 0 := by
  induction k with
  | zero => rfl
  | succ k ih =>
    have hzero : crcByte CrcVariant.espRomLe 0 0x00 = 0 := by decide
    rw [List.replicate_succ, crcBytes_cons, hzero, ih]

theorem crc16_espRomLe_zeros_append (k : Nat) (X : Bytes) :
    crc16 CrcVariant.espRomLe (List.replicate k 0x00 ++ X) = crc16 CrcVariant.espRomLe X := by
  have hzeros : crcBytes CrcVariant.espRomLe CrcVariant.espRomLe.init (List.replicate k 0x00) =
      CrcVariant.espRomLe.init := crcBytes_espRomLe_zeros k
  rw [crc16, crcBytes_append, hzeros, crc16]

theorem crc16_espRomLe_zeros (k : Nat) : crc16 CrcVariant.espRomLe (List.replicate k 0x00) = 0xFFFF := by
  have h := crc16_espRomLe_zeros_append k []
  rw [List.append_nil] at h
  exact h.trans (by decide)

/-- Settles O20: zero bytes keep the zero register of `ESP_ROM_LE`; the last clause by evaluation. -/
theorem leadingZerosUnderEspRomLe : Obligations.LeadingZerosUnderEspRomLe :=
  ⟨crc16_espRomLe_zeros_append, crc16_espRomLe_zeros, by decide⟩

/-- Settles O18, by evaluating both CRCs of the nine bytes. -/
theorem presetCheckValues : Obligations.PresetCheckValues :=
  ⟨rfl, rfl, by decide +kernel, by decide +kernel⟩

/-! ### ENC and DEC in terms of the wire layout (R106, R108) -/

section Frame
variable {c : Config}

theorem length_sealedFrame (hL : 9 ≤ c.L) (kind : Byte) (q : BitVec 16) (m : BitVec 32) {p : Bytes}
    (hp : p.length = c.L - 9) : (sealedFrame c kind q m p).length = c.L := by
  rw [sealedFrame, length_wireFrame]
  omega

/-- R106: the CRC stored in a sealed frame is the frame's own checksum. -/
theorem half_sealedFrame_eq_checksum (kind : Byte) (q : BitVec 16) (m : BitVec 32) (p : Bytes) :
    half (sealedFrame c kind q m p) 3 = checksum c (sealedFrame c kind q m p) := by
  simp only [sealedFrame, wireFrame_crc, checksum_wireFrame]

@[simp] theorem sealedFrame_type (kind : Byte) (q : BitVec 16) (m : BitVec 32) (p : Bytes) :
    (sealedFrame c kind q m p).getD 0 0 = kind := rfl

theorem fieldsOf_sealedFrame (k : Kind) (kind : Byte) (q : BitVec 16) (m : BitVec 32) (p : Bytes) :
    fieldsOf k (sealedFrame c kind q m p) = { kind := k, seq := q, magic := m, payload := p } := by
  simp only [fieldsOf, sealedFrame, wireFrame_seq, wireFrame_magic, wireFrame_payload]

/-- What it takes for the decoder to accept: nine bytes, the right checksum, and a kind code in the type byte. -/
theorem decodeFrame_eq_ok {B : Bytes} {d : Decoded} (h : decodeFrame c B = .ok d) :
    9 ≤ B.length ∧ checksum c B = half B 3 ∧ B.getD 0 0 = kindByte c d.kind ∧ d = fieldsOf d.kind B := by
  rw [decodeFrame_eq] at h
  split at h
  case isTrue => cases h
  case isFalse hlen =>
    split at h
    case isTrue => cases h
    case isFalse hcrc =>
      have hcrc := not_not.1 hcrc
      split at h
      case isTrue hb => cases h; exact ⟨by omega, hcrc, hb, rfl⟩
      case isFalse =>
        split at h
        case isTrue hu => cases h; exact ⟨by omega, hcrc, hu, rfl⟩
        case isFalse => cases h

/-- A frame with the right checksum and the type byte of `k` decodes to its fields. -/
theorem decodeFrame_of_checksum (hw : c.wf = true) {B : Bytes} (k : Kind) (hlen : 9 ≤ B.length)
    (hcrc : checksum c B = half B 3) (htype : B.getD 0 0 = kindByte c k) : decodeFrame c B = .ok (fieldsOf k B) := by
  rw [decodeFrame_eq, if_neg (by omega), if_neg (not_not.2 hcrc), htype]
  cases k with
  | broadcast => exact if_pos rfl
  | unicast =>
    obtain ⟨-, -, hne⟩ := (wf_iff c).1 hw
    exact (if_neg (Ne.symm hne)).trans (if_pos rfl)

/-- R113 on the frame itself: a sealed frame decodes to the fields it was sealed from. -/
theorem decodeFrame_sealedFrame (hw : c.wf = true) (k : Kind) (q : BitVec 16) (m : BitVec 32) (p : Bytes) :
    decodeFrame c (sealedFrame c (kindByte c k) q m p) = .ok { kind := k, seq := q, magic := m, payload := p } := by
  rw [decodeFrame_of_checksum hw k (by simp [sealedFrame]) (half_sealedFrame_eq_checksum ..).symm
    (sealedFrame_type ..), fieldsOf_sealedFrame]

/-- The other direction of R113: a frame that decodes is its decoded fields, sealed. -/
theorem sealedFrame_of_decodeFrame {B : Bytes} {d : Decoded} (h : decodeFrame c B = .ok d) :
    sealedFrame c (kindByte c d.kind) d.seq d.magic d.payload = B := by
  obtain ⟨hlen, hcrc, htype, hd⟩ := decodeFrame_eq_ok h
  have hB := eq_wireFrame_of_fields B hlen
  obtain ⟨hq, hm, hp⟩ : d.seq = half B 1 ∧ d.magic = word B 5 ∧ d.payload = B.drop 9 := by rw [hd]; exact ⟨rfl, rfl, rfl⟩
  rw [sealedFrame, ← checksum_wireFrame (v := half B 3), hq, hm, hp, ← htype, ← hB, hcrc, ← hB]

end Frame

/-! ### What the codec commands return -/

section Commands
variable {s : State}

theorem bytesOperand_of_le (h : (presented s).bytes.length ≤ s.cfg.NMAX) : bytesOperand s = .ok (presented s).bytes :=
  if_pos h

theorem bytesOperand_of_lt (h : s.cfg.NMAX < (presented s).bytes.length) : bytesOperand s = .error .byteStringTooLong :=
  if_neg (Nat.not_le.2 h)

theorem payloadOperand_of_eq (h : (presented s).payload.length = s.cfg.L - 9) :
    payloadOperand s = .ok (presented s).payload :=
  if_pos h

theorem payloadOperand_of_ne (h : (presented s).payload.length ≠ s.cfg.L - 9) :
    payloadOperand s = .error .payloadWrongLength :=
  if_neg h

/-- R104: CRC16 returns the CRC of its operand and writes no register. -/
theorem exec_crc16_eq_next (hn : (presented s).bytes.length ≤ s.cfg.NMAX) :
    exec .crc16 s = .next (completed s s.regs (okWith (.crc (crc16 s.cfg.crc (presented s).bytes)))) := by
  rw [exec, execCrc16, bytesOperand_of_le hn]
  rfl

theorem exec_crc16_of_lt (hn : s.cfg.NMAX < (presented s).bytes.length) :
    exec .crc16 s = .refused .byteStringTooLong := by
  rw [exec, execCrc16, bytesOperand_of_lt hn]

/-- The ENC of a kind (R106). -/
def encOf : Kind → Instr
  | .broadcast => .encB
  | .unicast => .encU

theorem exec_encOf (k : Kind) (s : State) : exec (encOf k) s = encodeCommand k s := by cases k <;> rfl

/-- R106: ENC returns the sealed frame of its operands and writes no register. -/
theorem exec_encOf_eq_next (k : Kind) (hw : s.cfg.wf = true) (hp : (presented s).payload.length = s.cfg.L - 9) :
    exec (encOf k) s = .next (completed s s.regs (okWith (.frame
      (sealedFrame s.cfg (kindByte s.cfg k) (presented s).seq (presented s).magic (presented s).payload)))) := by
  obtain ⟨hL, -, -⟩ := (wf_iff s.cfg).1 hw
  rw [exec_encOf, encodeCommand, payloadOperand_of_eq hp, ← buildFrame_eq_sealedFrame _ _ _ _ _ (by omega) hp]
  rfl

theorem exec_encOf_of_ne (k : Kind) (hp : (presented s).payload.length ≠ s.cfg.L - 9) :
    exec (encOf k) s = .refused .payloadWrongLength := by
  rw [exec_encOf, encodeCommand, payloadOperand_of_ne hp]

/-- What DEC returns for each answer of the decoder (R108, R191). -/
def decResult : Except Status Decoded → Result
  | .ok d => okWith (.decoded d)
  | .error e => raised e

theorem decResult_eq_decoded {a : Except Status Decoded} {d : Decoded} (h : decResult a = okWith (.decoded d)) :
    a = .ok d := by
  cases a with
  | ok d' => cases h; rfl
  | error e => cases h

/-- R108: DEC returns the decoder's answer and writes no register. -/
theorem exec_dec_eq_next (hn : (presented s).bytes.length ≤ s.cfg.NMAX) :
    exec .dec s = .next (completed s s.regs (decResult (decodeFrame s.cfg (presented s).bytes))) := by
  cases hd : decodeFrame s.cfg (presented s).bytes with
  | error e => simp only [exec, execDec, bytesOperand_of_le hn, hd]; rfl
  | ok d => simp only [exec, execDec, bytesOperand_of_le hn, hd]; rfl

theorem exec_dec_of_lt (hn : s.cfg.NMAX < (presented s).bytes.length) : exec .dec s = .refused .byteStringTooLong := by
  rw [exec, execDec, bytesOperand_of_lt hn]

/-- DEC returns fields exactly when the operand is short enough and decodes to them. -/
theorem exec_dec_eq_decoded_iff {d : Decoded} :
    exec .dec s = .next (completed s s.regs (okWith (.decoded d))) ↔
      (presented s).bytes.length ≤ s.cfg.NMAX ∧ decodeFrame s.cfg (presented s).bytes = .ok d := by
  constructor
  · intro h
    by_cases hn : (presented s).bytes.length ≤ s.cfg.NMAX
    · rw [exec_dec_eq_next hn] at h
      obtain ⟨-, hr⟩ := completed_inj (next_inj h)
      exact ⟨hn, decResult_eq_decoded hr⟩
    · rw [exec_dec_of_lt (Nat.not_le.1 hn)] at h
      cases h
  · rintro ⟨hn, hd⟩
    rw [exec_dec_eq_next hn, hd, decResult]

end Commands

/-- Settles O17: what CRC16 returns and refuses, and the CRCs of the empty and the zero strings. -/
theorem crc16ReturnsTheCrc : Obligations.Crc16ReturnsTheCrc :=
  ⟨decode_encode .crc16, fun _ => exec_crc16_eq_next, fun _ => exec_crc16_of_lt, crc16_nil, by decide, crc16_espRomLe_zeros⟩

/-- Settles O27: the frame ENC returns is the sealed frame of its operands, which has `L` bytes and decodes to them. -/
theorem decodeOfEncodeIsIdentity : Obligations.DecodeOfEncodeIsIdentity := by
  intro i k hik s hw hp
  obtain rfl : i = encOf k := by
    simp only [List.mem_cons, Prod.mk.injEq, List.not_mem_nil, or_false] at hik
    obtain ⟨rfl, rfl⟩ | ⟨rfl, rfl⟩ := hik <;> rfl
  refine ⟨_, exec_encOf_eq_next k hw hp, fun s' hcfg hbytes => ?_⟩
  obtain ⟨hL, hmax, -⟩ := (wf_iff s.cfg).1 hw
  rw [exec_dec_eq_decoded_iff, hbytes, hcfg, length_sealedFrame (by omega) _ _ _ hp]
  exact ⟨hmax, decodeFrame_sealedFrame hw k _ _ _⟩

/-- Settles O24: the words by evaluation, the rest by what ENC returns and refuses. -/
theorem encReturnsTheSealedFrame : Obligations.EncReturnsTheSealedFrame := by
  refine ⟨decode_encode .encB, decode_encode .encU, fun s hw hp => ?_, fun s hp => ?_⟩
  · obtain ⟨hL, -, -⟩ := (wf_iff s.cfg).1 hw
    exact ⟨exec_encOf_eq_next .broadcast hw hp, exec_encOf_eq_next .unicast hw hp,
      fun kind => length_sealedFrame (by omega) kind _ _ hp⟩
  · exact ⟨exec_encOf_of_ne .broadcast hp, exec_encOf_of_ne .unicast hp⟩

/-- Settles O25: ENC had a next state, so its payload had the right length and the frame is the sealed one. -/
theorem encodedFrameCarriesItsChecksum : Obligations.EncodedFrameCarriesItsChecksum := by
  intro s t i F hi hw h hret
  obtain ⟨k, rfl⟩ : ∃ k, i = encOf k := by
    simp only [List.mem_cons, List.not_mem_nil, or_false] at hi
    obtain rfl | rfl := hi
    · exact ⟨.broadcast, rfl⟩
    · exact ⟨.unicast, rfl⟩
  by_cases hp : (presented s).payload.length = s.cfg.L - 9
  · obtain ⟨hL, -, -⟩ := (wf_iff s.cfg).1 hw
    rw [exec_encOf_eq_next k hw hp] at h
    obtain rfl := next_inj h
    obtain rfl : sealedFrame s.cfg (kindByte s.cfg k) _ _ _ = F := by simpa [okWith] using hret
    exact ⟨length_sealedFrame (by omega) _ _ _ hp, half_sealedFrame_eq_checksum ..⟩
  · rw [exec_encOf_of_ne k hp] at h
    cases h

/-- Settles O26: DEC returns the decoder's answer, whose ordered checks are those of the statement. -/
theorem decReportsTheFirstFailingCheck : Obligations.DecReportsTheFirstFailingCheck := by
  refine ⟨decode_encode .dec, fun s hn => exec_dec_of_lt hn, ?_⟩
  rintro s B rfl hn
  rw [exec_dec_eq_next hn, decodeFrame_eq]
  simp only [apply_ite decResult]
  rfl

/-- Settles O28: the accepted frame is its decoded fields, sealed, and ENC seals just these. -/
theorem encodeOfDecodeIsIdentity : Obligations.EncodeOfDecodeIsIdentity := by
  intro s s' d hw hL h hcfg hq hm hp
  obtain ⟨-, hd⟩ := exec_dec_eq_decoded_iff.1 h
  obtain ⟨-, -, -, hfields⟩ := decodeFrame_eq_ok hd
  have hlen : (presented s').payload.length = s'.cfg.L - 9 := by
    rw [hp, hcfg, ← hL, hfields]
    exact List.length_drop
  have henc := exec_encOf_eq_next d.kind (hcfg ▸ hw) hlen
  rw [hcfg, hq, hm, hp, sealedFrame_of_decodeFrame hd] at henc
  rw [← henc]
  cases d.kind <;> rfl

/-! ### A single-byte error changes the checksum (R114) -/

section OddPolynomial

/-- A step loses no bit when the polynomial has a constant term: the bit shifted out comes back as bit 0. -/
theorem crcStep_injective {poly : BitVec 16} (hpoly : poly.getLsbD 0 = true) : Function.Injective (crcStep poly) := by
  intro a b h
  have hbit (x : BitVec 16) : (crcStep poly x).getLsbD 0 = x.getLsbD 15 := by
    cases htop : x.getLsbD 15 <;> simp only [crcStep, htop] <;> simp [hpoly]
  have htop : a.getLsbD 15 = b.getLsbD 15 := by rw [← hbit a, ← hbit b, h]
  have hshift : a <<< 1 = b <<< 1 := by
    unfold crcStep at h
    rw [htop] at h
    split at h
    · exact (BitVec.xor_left_inj poly).1 h
    · exact h
  ext i hi
  obtain rfl | hlt : i = 15 ∨ i < 15 := by omega
  · exact htop
  · have := congrArg (fun x => x.getLsbD (i + 1)) hshift
    simpa [show i + 1 < 16 by omega] using this

theorem crcSteps_injective {poly : BitVec 16} (hpoly : poly.getLsbD 0 = true) (n : Nat) :
    Function.Injective (crcSteps poly n) := by
  induction n with
  | zero => exact Function.injective_id
  | succ n ih => exact ih.comp (crcStep_injective hpoly)

/-- The bits of a byte enter the register's high byte, each at its own place. -/
theorem setWidth_shiftLeft_injective : Function.Injective fun b : Byte => b.setWidth 16 <<< 8 := by
  intro a b h
  have hnat := congrArg BitVec.toNat h
  have := a.isLt
  have := b.isLt
  simp only [BitVec.toNat_shiftLeft, BitVec.toNat_setWidth, Nat.shiftLeft_eq] at hnat
  exact BitVec.eq_of_toNat_eq (by omega)

theorem crcOut_injective (v : CrcVariant) : Function.Injective (crcOut v) := by
  intro a b h
  have hout := (BitVec.xor_left_inj _).1 h
  split at hout
  · exact reflect_injective hout
  · exact hout

variable {v : CrcVariant} (hpoly : v.poly.getLsbD 0 = true)
include hpoly

theorem crcByte_injective_reg (b : Byte) : Function.Injective (crcByte v · b) := fun _ _ h =>
  (BitVec.xor_left_inj _).1 (crcSteps_injective hpoly 8 h)

theorem crcByte_injective_byte (reg : BitVec 16) : Function.Injective (crcByte v reg) := by
  intro a b h
  have hin := setWidth_shiftLeft_injective ((BitVec.xor_right_inj _).1 (crcSteps_injective hpoly 8 h))
  split at hin
  · exact reflect_injective hin
  · exact hin

theorem crcBytes_injective (B : Bytes) : Function.Injective (crcBytes v · B) := by
  induction B with
  | nil => exact Function.injective_id
  | cons b B ih => exact ih.comp (crcByte_injective_reg hpoly b)

/-- With the other bytes fixed, the CRC tells the values of one byte apart. -/
theorem crc16_set_injective {B : Bytes} {i : Nat} (hi : i < B.length) :
    Function.Injective fun x => crc16 v (B.set i x) := by
  intro x y h
  simp only [List.set_eq_take_append_cons_drop, hi, if_true, crc16, crcBytes_append, crcBytes_cons] at h
  exact crcByte_injective_byte hpoly _ (crcBytes_injective hpoly _ (crcOut_injective v h))

end OddPolynomial

section SingleByteError
variable {B : Bytes} {i : Nat} {x : Byte}

/-- Bytes 3 and 4 do not enter the checksum (R105). -/
theorem zeroCrcField_set_crc (h : i = 3 ∨ i = 4) : zeroCrcField (B.set i x) = zeroCrcField B := by
  obtain rfl | rfl := h
  · rw [zeroCrcField, List.set_set, zeroCrcField]
  · rw [zeroCrcField, List.set_comm _ _ (by decide), List.set_set, List.set_comm _ _ (by decide), zeroCrcField]

theorem zeroCrcField_set_of_ne (h3 : i ≠ 3) (h4 : i ≠ 4) : zeroCrcField (B.set i x) = (zeroCrcField B).set i x := by
  rw [zeroCrcField, List.set_comm _ _ h3, List.set_comm _ _ h4, zeroCrcField]

theorem getD_set_of_ne {j : Nat} (h : i ≠ j) : (B.set i x).getD j 0 = B.getD j 0 := by
  simp [List.getD_eq_getElem?_getD, List.getElem?_set_ne h]

theorem getD_set_self (h : i < B.length) : (B.set i x).getD i 0 = x := by
  simp [List.getD_eq_getElem?_getD, List.getElem?_set_self h]

theorem half_inj {C : Bytes} {j : Nat} (h : half B j = half C j) :
    B.getD j 0 = C.getD j 0 ∧ B.getD (j + 1) 0 = C.getD (j + 1) 0 := by
  have hnat := congrArg BitVec.toNat h
  simp only [half, toNat_append_eq] at hnat
  have := (B.getD j 0).isLt
  have := (C.getD j 0).isLt
  exact ⟨BitVec.eq_of_toNat_eq (by omega), BitVec.eq_of_toNat_eq (by omega)⟩

/-- An error in one byte of a frame with the right checksum is seen: in the `crc` field only the stored CRC changes,
elsewhere only the computed one. -/
theorem checksum_ne_half_of_set {c : Config} (hpoly : c.crc.poly.getLsbD 0 = true) (hlen : 9 ≤ B.length)
    (hi : i < B.length) (hok : checksum c B = half B 3) (hx : x ≠ B.getD i 0) :
    checksum c (B.set i x) ≠ half (B.set i x) 3 := by
  intro hbad
  rw [← crc16_zeroCrcField c _ (by simpa using hlen)] at hbad
  rw [← crc16_zeroCrcField c B hlen] at hok
  by_cases hcrc : i = 3 ∨ i = 4
  · rw [zeroCrcField_set_crc hcrc, hok] at hbad
    obtain ⟨h3, h4⟩ := half_inj hbad
    obtain rfl | rfl := hcrc
    · exact hx (by rw [h3, getD_set_self hi])
    · exact hx (by rw [h4, getD_set_self hi])
  · obtain ⟨hi3, hi4⟩ := not_or.1 hcrc
    have hhalf : half (B.set i x) 3 = half B 3 := by rw [half, getD_set_of_ne hi3, getD_set_of_ne hi4, half]
    have hself : zeroCrcField B = (zeroCrcField B).set i (B.getD i 0) := by
      rw [← zeroCrcField_set_of_ne hi3 hi4, List.getD_eq_getElem _ _ hi, List.set_getElem_self]
    rw [hhalf, ← hok, zeroCrcField_set_of_ne hi3 hi4, hself, List.set_set] at hbad
    exact hx (crc16_set_injective hpoly (by simpa [zeroCrcField] using hi) hbad)

end SingleByteError

/-- A flipped bit makes the byte another one. -/
theorem xor_twoPow_ne (b : Byte) (bit : Fin 8) : b ^^^ BitVec.twoPow 8 bit.val ≠ b := by
  intro h
  have hbit := congrArg (fun x => x.getLsbD bit.val) h
  simp at hbit

theorem presets_poly_odd : ∀ v ∈ [CrcVariant.ccittFalse, CrcVariant.espRomLe], v.poly.getLsbD 0 = true := by decide

/-- Settles O29: both presets have an odd polynomial, so the flipped byte is an error the checksum sees. -/
theorem singleBitErrorIsDetected : Obligations.SingleBitErrorIsDetected := by
  intro s s' d i bit hv hcfg h hi hbytes
  obtain ⟨hn, hd⟩ := exec_dec_eq_decoded_iff.1 h
  obtain ⟨hlen, hok, -, -⟩ := decodeFrame_eq_ok hd
  have hsame : (presented s').bytes.length = (presented s).bytes.length := by rw [hbytes, flipBit, List.length_set]
  have hbad : checksum s'.cfg (presented s').bytes ≠ half (presented s').bytes 3 := by
    rw [hcfg, hbytes]
    exact checksum_ne_half_of_set (presets_poly_odd _ hv) hlen hi hok (xor_twoPow_ne _ bit)
  rw [exec_dec_eq_next (by rw [hsame, hcfg]; exact hn), decodeFrame_eq, if_neg (by omega), if_pos hbad, decResult]

end Sys2Proof.Machine

/-! SUPPORT. The statements of spec/41_sequence_counters.md: what SEQ and TX return (R131, R132), and the sequence law along
a run without a reset (R136). -/

namespace Sys2Proof.Machine

/-! ### Runs without a reset -/

/-- A run without a reset begins with no reset, and what follows its first step has none. -/
theorem noReset_succ_of_step {n : Nat} {s u : State} (hno : NoReset (n + 1) s) (h : step s = .next u) :
    (∀ e rest, s.inbox ≠ .reset e :: rest) ∧ NoReset n u := by
  obtain ⟨hinbox, -, -⟩ := stepConsumesOneEvent s u h
  constructor
  · rintro e rest hi
    have := hno (.reset e) (by simp [hi])
    cases this
  · intro e he
    rw [hinbox, ← List.drop_one, List.take_drop, Nat.add_comm] at he
    exact hno e (List.mem_of_mem_drop he)

/-! ### One allocation (R136) -/

@[simp] theorem seqGet_seqAdvance (k : Kind) (r : Registers) : seqGet k (seqAdvance k r) = seqGet k r + 1 :=
  seqGet_seqSet ..

theorem seqGet_seqAdvance_of_ne {j k : Kind} (h : j ≠ k) (r : Registers) : seqGet j (seqAdvance k r) = seqGet j r :=
  seqGet_seqSet_of_ne _ _ _ h

@[simp] theorem seqGet_pairRegisters (k : Kind) (src : Addr) (t0 : BitVec 32) (p : Bytes) (r : Registers) :
    seqGet k (pairRegisters src t0 p r) = seqGet k r := by cases k <;> rfl

@[simp] theorem resultsSince_completed (s : State) (regs : Registers) (r : Result) :
    resultsSince s (completed s regs r) = [r] := by simp [resultsSince]

/-- A command allocates at most one kind. -/
theorem AllocatesKind.unique {i : Instr} {s : State} {j k : Kind} (hj : AllocatesKind i s j)
    (hk : AllocatesKind i s k) : j = k := by
  obtain ⟨rfl, rfl⟩ | ⟨rfl, rfl⟩ | ⟨rfl, rfl⟩ := hj <;> simpa [AllocatesKind, eq_comm] using hk

/-- Only SEQ and TX allocate. -/
theorem AllocatesKind.mem {i : Instr} {s : State} {k : Kind} (h : AllocatesKind i s k) : i ∈ [.seqB, .seqU, .tx] := by
  obtain ⟨rfl, -⟩ | ⟨rfl, -⟩ | ⟨rfl, -⟩ := h <;> decide

/-- An illegal word allocates nothing. -/
theorem allocates_of_decode_error {s : State} {w : BitVec 8} {x : Inputs} {rest : List HostEvent} {e : Illegal}
    (hi : s.inbox = .command w x :: rest) (hd : decode w = .error e) (k : Kind) : allocates k s = false := by
  have h1 : (w == 0x04) = false := beq_false_of_ne fun h => by simp [(decode_seqB w).2 h] at hd
  have h2 : (w == 0x14) = false := beq_false_of_ne fun h => by simp [(decode_seqU w).2 h] at hd
  have h3 : (w == 0x05) = false := beq_false_of_ne fun h => by simp [(decode_tx w).2 h] at hd
  cases k <;> simp only [allocates, hi, h1, h2, h3, Bool.false_and, Bool.or_self]

/-- A command that does not allocate kind `k`, in R136's words. -/
theorem allocates_eq_false_iff {s : State} {w : BitVec 8} {x : Inputs} {rest : List HostEvent} {i : Instr}
    (hi : s.inbox = .command w x :: rest) (hd : decode w = .ok i) (k : Kind) :
    allocates k s = false ↔ ¬ AllocatesKind i s k := by
  rw [Bool.eq_false_iff, ne_eq, allocates_iff hi hd]

/-- A step that is no reset and counter `k`: it allocates `k`, returns the old value as its only `out.seq` and adds one, or
it does not allocate `k` and leaves the counter. -/
theorem step_counter_cases {s t : State} (k : Kind) (h : step s = .next t) (hno : ∀ e rest, s.inbox ≠ .reset e :: rest) :
    (allocates k s = true ∧ (resultsSince s t).filterMap outSeq = [seqGet k s.regs] ∧
      seqGet k t.regs = seqGet k s.regs + 1) ∨
    (allocates k s = false ∧ seqGet k t.regs = seqGet k s.regs) := by
  obtain ⟨hi, rfl⟩ | ⟨e, rest, hi, -⟩ | ⟨w, x, rest, e, hi, hd, rfl⟩ | ⟨w, x, rest, i, hi, hd, hx⟩ := step_next_cases h
  · exact .inr ⟨by simp [allocates, hi], rfl⟩
  · exact absurd hi (hno e rest)
  · exact .inr ⟨allocates_of_decode_error hi hd k, rfl⟩
  · have hnot := allocates_eq_false_iff hi hd k
    obtain ⟨hni, r, rfl, -⟩ | ⟨j, r, hj, rfl, hseq, -⟩ | ⟨rfl, -, d, -, rfl⟩ := exec_next_cases hx
    · exact .inr ⟨hnot.2 fun ha => hni ha.mem, rfl⟩
    · by_cases hjk : j = k
      · subst hjk
        exact .inl ⟨(allocates_iff hi hd j).2 hj, by simp [hseq], by simp⟩
      · exact .inr ⟨hnot.2 fun ha => hjk (hj.unique ha), seqGet_seqAdvance_of_ne (Ne.symm hjk) _⟩
    · exact .inr ⟨hnot.2 fun ha => absurd ha.mem (by decide), by simp⟩

/-! ### The sequence law (R136) -/

/-- The first `n` of the values `v, v + 1, v + 2, …` modulo 2^16. -/
def consecutiveFrom (v : BitVec 16) (n : Nat) : List (BitVec 16) :=
  (List.range n).map fun j => v + BitVec.ofNat 16 j

theorem add_one_add_ofNat (v : BitVec 16) (n : Nat) : v + 1 + BitVec.ofNat 16 n = v + BitVec.ofNat 16 (n + 1) := by
  rw [BitVec.add_assoc, BitVec.add_comm 1, BitVec.ofNat_add]
  rfl

theorem consecutiveFrom_succ (v : BitVec 16) (n : Nat) :
    consecutiveFrom v (n + 1) = v :: consecutiveFrom (v + 1) n := by
  simp only [consecutiveFrom, List.range_succ_eq_map, List.map_cons, List.map_map, Function.comp_def,
    add_one_add_ofNat, BitVec.add_zero]

theorem allocatedSeqs_succ {s u : State} (k : Kind) (n : Nat) (h : step s = .next u) :
    allocatedSeqs k (n + 1) s =
      (if allocates k s then (resultsSince s u).filterMap outSeq else []) ++ allocatedSeqs k n u := by
  rw [allocatedSeqs, h]

/-- Along a run without a reset, each step takes the next value of the counter or leaves the counter. -/
theorem runs_allocatedSeqs (k : Kind) {n : Nat} {s t : State} (hno : NoReset n s) (hrun : Runs n s t) :
    allocatedSeqs k n s = consecutiveFrom (seqGet k s.regs) (allocatedSeqs k n s).length ∧
    seqGet k t.regs = seqGet k s.regs + BitVec.ofNat 16 (allocatedSeqs k n s).length := by
  induction n generalizing s with
  | zero =>
    obtain rfl := next_inj hrun
    simp [allocatedSeqs, consecutiveFrom]
  | succ n ih =>
    obtain ⟨u, hu, hrun⟩ := runs_succ.1 hrun
    obtain ⟨hhead, hno⟩ := noReset_succ_of_step hno hu
    obtain ⟨hvals, hend⟩ := ih hno hrun
    rw [allocatedSeqs_succ k n hu]
    obtain ⟨hal, hseq, hnext⟩ | ⟨hal, hsame⟩ := step_counter_cases k hu hhead
    · rw [hnext] at hvals hend
      rw [if_pos hal, hseq, List.singleton_append, List.length_cons, consecutiveFrom_succ, ← hvals, hend,
        add_one_add_ofNat]
      exact ⟨rfl, rfl⟩
    · rw [hsame] at hvals hend
      rw [if_neg (by simp [hal]), List.nil_append]
      exact ⟨hvals, hend⟩

/-- Settles O35, by induction on the run (`runs_allocatedSeqs`). -/
theorem sequenceLaw : Obligations.SequenceLaw := fun k _ _ _ => runs_allocatedSeqs k

/-! ### What SEQ and TX return -/

/-- R132: TX returns the sealed frame of the role's kind, numbered by that kind's counter, and advances that counter. -/
theorem exec_tx_eq_next {s : State} {k : Kind} (hk : roleKind s.regs.role = k) (hw : s.cfg.wf = true)
    (hp : (presented s).payload.length = s.cfg.L - 9) :
    exec .tx s = .next (completed s (seqAdvance k s.regs) (okWith (.sent
      { frame := sealedFrame s.cfg (kindByte s.cfg k) (seqGet k s.regs) s.regs.magic (presented s).payload
        dest := s.regs.peerAddr, kind := k, seq := seqGet k s.regs }))) := by
  obtain ⟨hL, -, -⟩ := (wf_iff s.cfg).1 hw
  rw [exec, execTx, payloadOperand_of_eq hp, ← buildFrame_eq_sealedFrame _ _ _ _ _ (by omega) hp, ← hk]
  rfl

theorem exec_tx_of_ne {s : State} (hp : (presented s).payload.length ≠ s.cfg.L - 9) :
    exec .tx s = .refused .payloadWrongLength := by
  rw [exec, execTx, payloadOperand_of_ne hp]

/-- R131: SEQ returns the counter from before the increment. -/
theorem exec_seqB_eq_next (s : State) : exec .seqB s =
    .next (completed s { s.regs with seq0 := s.regs.seq0 + 1 } (okWith (.seq s.regs.seq0))) := rfl

theorem exec_seqU_eq_next (s : State) : exec .seqU s =
    .next (completed s { s.regs with seq1 := s.regs.seq1 + 1 } (okWith (.seq s.regs.seq1))) := rfl

/-- Settles O33: TX at each of the two roles. -/
theorem txBuildsTheFrameOfTheRole : Obligations.TxBuildsTheFrameOfTheRole :=
  ⟨decode_encode .tx,
   fun _ hw hp hrole => exec_tx_eq_next (k := .broadcast) (congrArg roleKind hrole) hw hp,
   fun _ hw hp hrole => exec_tx_eq_next (k := .unicast) (congrArg roleKind hrole) hw hp,
   fun _ => exec_tx_of_ne⟩

/-- Settles O32: at 0xFFFF the increment is 0x0000. -/
theorem seqReturnsThenIncrements : Obligations.SeqReturnsThenIncrements := by
  refine ⟨decode_encode .seqB, decode_encode .seqU, fun s => ⟨exec_seqB_eq_next s, exec_seqU_eq_next s⟩,
    fun s h => ?_, fun s h => ?_⟩
  · rw [exec_seqB_eq_next, h, show (0xFFFF : BitVec 16) + 1 = 0x0000 by decide]
  · rw [exec_seqU_eq_next, h, show (0xFFFF : BitVec 16) + 1 = 0x0000 by decide]

end Sys2Proof.Machine

/-! SUPPORT. The statements of spec/42_link_session.md: what RX does with each answer of the decoder (R151, R152), when it
pairs and what the pairing writes (R153 to R157), the session machine over steps and runs (R150, R161, R163), and TSADJ and
STATUS (R164, R165). -/

namespace Sys2Proof.Machine

/-! ### What RX does with the decoder's answer (R151, R152) -/

section Rx
variable {s : State}

/-- Where RX ends for each answer of the decoder: a raise that writes nothing, or the session stage. -/
def rxEnd (s : State) : Except Status Decoded → State
  | .error e => completed s s.regs (rxRaised e)
  | .ok d =>
    completed s
      (sessionRegisters (sessionOutcome s.regs.role (presented s).destMatch d) (presented s) d.payload s.regs)
      (rxWith (sessionOutcome s.regs.role (presented s).destMatch d) d)

theorem exec_rx_eq_next (hn : (presented s).bytes.length ≤ s.cfg.NMAX) :
    exec .rx s = .next (rxEnd s (decodeFrame s.cfg (presented s).bytes)) := by
  cases hd : decodeFrame s.cfg (presented s).bytes with
  | error e => simp only [exec, execRx, bytesOperand_of_le hn, hd]; rfl
  | ok d => simp only [exec, execRx, bytesOperand_of_le hn, hd]; rfl

theorem exec_rx_of_lt (hn : s.cfg.NMAX < (presented s).bytes.length) : exec .rx s = .refused .byteStringTooLong := by
  rw [exec, execRx, bytesOperand_of_lt hn]

theorem decResult_eq_raised {a : Except Status Decoded} {e : Status} (h : decResult a = raised e) : a = .error e := by
  cases a with
  | ok d => cases h
  | error e' => cases h; rfl

/-- R152: RX refuses where DEC does, and else goes on from the decoder's answer, which is all that DEC returns. -/
theorem exec_dec_exec_rx_cases (s : State) :
    (exec .dec s = .refused .byteStringTooLong ∧ exec .rx s = .refused .byteStringTooLong) ∨
    ∃ a, exec .dec s = .next (completed s s.regs (decResult a)) ∧ exec .rx s = .next (rxEnd s a) := by
  obtain hn | hn := Nat.lt_or_ge s.cfg.NMAX (presented s).bytes.length
  · exact .inl ⟨exec_dec_of_lt hn, exec_rx_of_lt hn⟩
  · exact .inr ⟨_, exec_dec_eq_next hn, exec_rx_eq_next hn⟩

theorem exec_rx_of_dec_raised {e : Status} (h : exec .dec s = .next (completed s s.regs (raised e))) :
    exec .rx s = .next (completed s s.regs (rxRaised e)) := by
  obtain ⟨hdec, -⟩ | ⟨a, hdec, hrx⟩ := exec_dec_exec_rx_cases s <;> rw [h] at hdec
  · cases hdec
  · obtain ⟨-, ha⟩ := completed_inj (next_inj hdec)
    rw [hrx, decResult_eq_raised ha.symm, rxEnd]

theorem exec_rx_of_dec_decoded {d : Decoded} (h : exec .dec s = .next (completed s s.regs (okWith (.decoded d)))) :
    exec .rx s = .next (rxEnd s (.ok d)) := by
  obtain ⟨hdec, -⟩ | ⟨a, hdec, hrx⟩ := exec_dec_exec_rx_cases s <;> rw [h] at hdec
  · cases hdec
  · obtain ⟨-, ha⟩ := completed_inj (next_inj hdec)
    rw [hrx, decResult_eq_decoded ha.symm]

end Rx

/-- Settles O36: DEC and RX look at one answer of the decoder, and a frame that decodes has a session outcome. -/
theorem rxDecodeStageIsDec : Obligations.RxDecodeStageIsDec := by
  refine fun s => ⟨fun r h => ?_, fun e _ => exec_rx_of_dec_raised, fun d h =>
    ⟨_, _, sessionOutcome_ne_none _ _ d, exec_rx_of_dec_decoded h⟩⟩
  obtain ⟨hdec, hrx⟩ | ⟨a, hdec, -⟩ := exec_dec_exec_rx_cases s <;> rw [h] at hdec
  · rw [hrx, hdec]
  · cases hdec

/-! ### The session stage, outcome by outcome (R151) -/

theorem sessionOutcome_broadcast (role : Role) (dm : Bool) (B : Bytes) :
    sessionOutcome role dm (fieldsOf .broadcast B) = .notUnicast := rfl

/-- A Unicast frame has 5 payload bytes when it has 14 bytes. -/
theorem sessionOutcome_unicast (role : Role) (dm : Bool) (B : Bytes) :
    sessionOutcome role dm (fieldsOf .unicast B) =
      if dm = false then .notForUs else if role = .paired then .confirmed
      else if B.length < 14 then .ignoredShort else .pairedNow := by
  have hlen : (B.drop 9).length < 5 ↔ B.length < 14 := by rw [List.length_drop]; omega
  simp only [sessionOutcome, fieldsOf, hlen, reduceCtorEq, if_false]

theorem rxEnd_broadcast (s : State) (B : Bytes) :
    rxEnd s (.ok (fieldsOf .broadcast B)) = completed s s.regs (rxWith .notUnicast (fieldsOf .broadcast B)) := rfl

theorem rxEnd_unicast (s : State) (B : Bytes) :
    rxEnd s (.ok (fieldsOf .unicast B)) =
      if (presented s).destMatch = false then completed s s.regs (rxWith .notForUs (fieldsOf .unicast B))
      else if s.regs.role = .paired then completed s s.regs (rxWith .confirmed (fieldsOf .unicast B))
      else if B.length < 14 then completed s s.regs (rxWith .ignoredShort (fieldsOf .unicast B))
      else completed s (pairedRegisters s.regs (presented s).src (presented s).localTime (B.drop 9))
        (rxWith .pairedNow (fieldsOf .unicast B)) := by
  rw [rxEnd, sessionOutcome_unicast]
  split_ifs with hdm hrole hlen
  · rfl
  · rfl
  · rfl
  · rw [← pairRegisters_eq _ _ _ _ (by rw [List.length_drop]; omega)]
    rfl

/-- Settles O37: the decoder's checks in their order (`decodeFrame_eq`), then the session stage by the frame's kind. -/
theorem rxStepsTheSession : Obligations.RxStepsTheSession := by
  refine ⟨decode_encode .rx, fun s => exec_rx_of_lt, ?_⟩
  rintro s B rfl hn
  rw [exec_rx_eq_next hn, decodeFrame_eq, ← rxEnd_unicast, ← rxEnd_broadcast]
  simp only [apply_ite (rxEnd s), ite_not]
  rfl

/-! ### The pairing transition (R153) and what it writes (R155 to R157) -/

section Pairing
variable {s : State} {regs : Registers} {d : Decoded}

/-- R153, R155: RX pairs exactly under the five conditions, and then the registers are those of the pairing action. -/
theorem exec_rx_eq_pairedNow_iff :
    exec .rx s = .next (completed s regs (rxWith .pairedNow d)) ↔
      (exec .dec s = .next (completed s s.regs (okWith (.decoded d))) ∧ d.kind = .unicast ∧
        (presented s).destMatch = true ∧ s.regs.role = .discovering ∧ 5 ≤ d.payload.length) ∧
      regs = pairedRegisters s.regs (presented s).src (presented s).localTime d.payload := by
  constructor
  · intro h
    obtain ⟨-, hrx⟩ | ⟨a, hdec, hrx⟩ := exec_dec_exec_rx_cases s <;> rw [hrx] at h
    · cases h
    · cases a with
      | error e => cases (completed_inj (next_inj h)).2
      | ok d' =>
        obtain ⟨hregs, hres⟩ := completed_inj (next_inj h)
        obtain ⟨ho, rfl⟩ : sessionOutcome s.regs.role (presented s).destMatch d' = .pairedNow ∧ d' = d := by
          simpa [rxWith] using hres
        obtain ⟨hkind, hdm, hrole, hlen⟩ := sessionOutcome_eq_pairedNow.1 ho
        refine ⟨⟨hdec, hkind, hdm, hrole, hlen⟩, ?_⟩
        rw [← hregs, ho, ← pairRegisters_eq _ _ _ _ hlen, sessionRegisters]
  · rintro ⟨⟨hdec, hkind, hdm, hrole, hlen⟩, rfl⟩
    have ho := sessionOutcome_eq_pairedNow.2 ⟨hkind, hdm, hrole, hlen⟩
    rw [exec_rx_of_dec_decoded hdec, rxEnd, ho, ← pairRegisters_eq _ _ _ _ hlen, sessionRegisters]

theorem pairedRegisters_of_exec_rx (h : exec .rx s = .next (completed s regs (rxWith .pairedNow d))) :
    regs = pairedRegisters s.regs (presented s).src (presented s).localTime d.payload :=
  (exec_rx_eq_pairedNow_iff.1 h).2

end Pairing

/-- Settles O38, by `exec_rx_eq_pairedNow_iff`: the fields RX returns are those DEC decodes. -/
theorem rxPairsExactlyWhen : Obligations.RxPairsExactlyWhen := by
  intro s
  constructor
  · rintro ⟨regs, d, h⟩
    exact ⟨d, (exec_rx_eq_pairedNow_iff.1 h).1⟩
  · rintro ⟨d, h⟩
    exact ⟨_, d, exec_rx_eq_pairedNow_iff.2 ⟨h, rfl⟩⟩

/-- R156: a device byte of 1 to 255 is numbered from 0. -/
theorem toNat_setWidth_sub_one {b : Byte} (h : 1 ≤ b.toNat) : (b.setWidth 16 - 1).toNat = b.toNat - 1 := by
  bv_omega

/-- Settles O39, field by field of `pairedRegisters`. -/
theorem pairingActionWrites : Obligations.PairingActionWrites := by
  intro s regs d h
  rw [pairedRegisters_of_exec_rx h]
  refine ⟨rfl, rfl, rfl, toNat_setWidth_sub_one, fun h0 => ?_, rfl, rfl, rfl, rfl⟩
  rw [pairedRegisters, h0]
  rfl

/-! ### Clock arithmetic (R157, R164) -/

/-- A difference of two words is the integer difference of their values, reduced to their width. -/
theorem sub_eq_ofInt {n : Nat} (x y : BitVec n) : x - y = BitVec.ofInt n (x.toNat - y.toNat) := by
  simp only [Int.sub_eq_add_neg, BitVec.ofInt_add, BitVec.ofInt_neg, BitVec.ofInt_natCast, BitVec.ofNat_toNat,
    BitVec.setWidth_eq, BitVec.sub_eq_add_neg]

/-- Settles O40: both readings of the integer difference modulo 2^32. -/
theorem clockOffsetIsTheSignedDifference : Obligations.ClockOffsetIsTheSignedDifference := by
  intro s regs d h
  have hofs : regs.clockOffset = BitVec.ofInt 32 ((word d.payload 1).toNat - (presented s).localTime.toNat) := by
    rw [pairedRegisters_of_exec_rx h, ← sub_eq_ofInt]
    rfl
  rw [hofs]
  refine ⟨?_, fun hlo hhi => ?_⟩
  · rw [BitVec.toNat_ofInt, Int.toNat_of_nonneg (Int.emod_nonneg _ (by decide))]
    rfl
  · exact BitVec.toInt_ofInt_eq_self (by decide) hlo hhi

/-- The state a command leaves, from its registers and the result it returned. -/
theorem eq_completed_of_returned {i : Instr} {s t : State} {r : Result} (h : exec i s = .next t)
    (hret : t.returned = s.returned ++ [r]) : t = completed s t.regs r := by
  obtain ⟨regs, r', rfl⟩ := exec_next_completed h
  obtain rfl : r' = r := by simpa using hret
  rfl

/-- R164: TSADJ adds `CLOCK_OFFSET` and writes no register. -/
theorem exec_tsadj_eq_next (s : State) :
    exec .tsadj s = .next (completed s s.regs (okWith (.time ((presented s).t + s.regs.clockOffset)))) := rfl

/-- Settles O50: the offset added is the one the pairing wrote, and sums are taken modulo 2^32. -/
theorem tsadjFollowsThePeerClock : Obligations.TsadjFollowsThePeerClock := by
  intro s t u d h hret hofs
  rw [eq_completed_of_returned h hret] at h
  rw [exec_tsadj_eq_next, hofs, pairedRegisters_of_exec_rx h, BitVec.ofInt_add, BitVec.ofInt_natCast,
    BitVec.ofNat_toNat, BitVec.setWidth_eq, ← sub_eq_ofInt]
  rfl

/-- Settles O49: while Discovering the session invariant makes the offset 0. -/
theorem tsadjAddsTheClockOffset : Obligations.TsadjAddsTheClockOffset := by
  refine ⟨decode_encode .tsadj, exec_tsadj_eq_next, fun s hinv hrole => ?_⟩
  obtain ⟨-, hofs, -⟩ := hinv.2 hrole
  rw [exec_tsadj_eq_next, hofs, add_zero]

/-- Settles O51: the view STATUS returns names every register. -/
theorem statusReturnsEveryRegister : Obligations.StatusReturnsEveryRegister :=
  ⟨decode_encode .status, fun _ => rfl⟩

/-! ### The transitions of the session machine (R150) -/

/-- Settles O42: an illegal word and every command but a pairing RX leave the session registers. -/
theorem sessionTransitions : Obligations.SessionTransitions := by
  intro s t h
  obtain ⟨hi, rfl⟩ | ⟨e, rest, hi, rfl⟩ | ⟨w, x, rest, e, hi, -, rfl⟩ | ⟨w, x, rest, i, hi, hd, hx⟩ :=
    step_next_cases h <;> rw [hi]
  · exact ⟨rfl, rfl⟩
  · exact ⟨rfl, rfl⟩
  · exact .inr ⟨⟨_, rfl, nofun⟩, rfl, rfl, rfl, rfl, rfl⟩
  · obtain ⟨-, r, rfl, hr⟩ | ⟨k, r, -, rfl, -, hr⟩ | ⟨rfl, -, d, -, rfl⟩ := exec_next_cases hx
    · exact .inr ⟨⟨r, rfl, hr⟩, rfl, rfl, rfl, rfl, rfl⟩
    · exact .inr ⟨⟨r, rfl, by simp [hr]⟩, by simp⟩
    · obtain ⟨⟨hdec, hkind, hdm, hrole, hlen⟩, hregs⟩ := exec_rx_eq_pairedNow_iff.1 hx
      rw [hregs]
      rw [presented_of_command hi] at hdm ⊢
      exact .inl ⟨(decode_rx w).1 hd, hrole, hdm, d, hdec, hkind, hlen, rfl⟩

/-! ### The session over runs without a reset (R161, R163) -/

/-- `ROLE` and the registers the pairing action writes (R155) have the same values in both. -/
structure SameSession (a b : Registers) : Prop where
  role : b.role = a.role
  peerAddr : b.peerAddr = a.peerAddr
  deviceId : b.deviceId = a.deviceId
  clockOffset : b.clockOffset = a.clockOffset
  stillBcast : b.stillBcast = a.stillBcast

theorem SameSession.refl (a : Registers) : SameSession a a := ⟨rfl, rfl, rfl, rfl, rfl⟩

theorem SameSession.trans {a b c : Registers} (hab : SameSession a b) (hbc : SameSession b c) : SameSession a c :=
  ⟨hbc.role.trans hab.role, hbc.peerAddr.trans hab.peerAddr, hbc.deviceId.trans hab.deviceId,
    hbc.clockOffset.trans hab.clockOffset, hbc.stillBcast.trans hab.stillBcast⟩

/-- How many times the pairing action ran between `s` and a later state `t`. -/
def pairings (s t : State) : Nat := (resultsSince s t).countP isPairing

theorem pairings_self (s : State) : pairings s s = 0 := by simp [pairings, resultsSince]

/-- A step that is no reset pairs once, from Discovering to Paired, or does not pair and leaves the session registers. -/
theorem step_session_cases {s t : State} (h : step s = .next t) (hno : ∀ e rest, s.inbox ≠ .reset e :: rest) :
    (SameSession s.regs t.regs ∧ pairings s t = 0) ∨
    (s.regs.role = .discovering ∧ t.regs.role = .paired ∧ pairings s t = 1) := by
  have htrans := sessionTransitions s t h
  split at htrans
  next e rest hi => exact absurd hi (hno e rest)
  next =>
    obtain ⟨-, hrole, -, d, -, -, -, rfl⟩ | ⟨⟨r, hret, hr⟩, hrole, hpeer, hofs, hdev, hstill⟩ := htrans
    · exact .inr ⟨hrole, rfl, by simp [pairings, isPairing, rxWith]⟩
    · exact .inl ⟨⟨hrole, hpeer, hdev, hofs, hstill⟩, by simp [pairings, resultsSince, hret, isPairing, hr]⟩
  next =>
    obtain ⟨hret, hregs⟩ := htrans
    exact .inl ⟨hregs ▸ SameSession.refl _, by simp [pairings, resultsSince, hret]⟩

/-- A run only appends to the results returned. -/
theorem returned_prefix_of_runs {n : Nat} {s t : State} (h : Runs n s t) : s.returned <+: t.returned := by
  refine runs_invariant (P := fun u => s.returned <+: u.returned) (fun u u' hu hstep => ?_) h (List.prefix_refl _)
  rw [returned_eq_append_resultsSince hstep]
  exact hu.trans (List.prefix_append _ _)

/-- The pairings of a run are those of its first step and those of the rest. -/
theorem pairings_of_step_runs {n : Nat} {s u t : State} (h : step s = .next u) (hrun : Runs n u t) :
    pairings s t = pairings s u + pairings u t := by
  have ht : t.returned = s.returned ++ (resultsSince s u ++ resultsSince u t) := by
    rw [← List.append_assoc, ← returned_eq_append_resultsSince h]
    exact (List.prefix_iff_eq_append.1 (returned_prefix_of_runs hrun)).symm
  have hsplit : resultsSince s t = resultsSince s u ++ resultsSince u t := by
    rw [resultsSince, ht, List.drop_left]
  rw [pairings, hsplit, List.countP_append, pairings, pairings]

/-- R163: a run without a reset from a Paired state stays there and pairs no more. -/
theorem runs_of_paired {n : Nat} {s t : State} (hno : NoReset n s) (hrun : Runs n s t) (hs : s.regs.role = .paired) :
    SameSession s.regs t.regs ∧ pairings s t = 0 := by
  induction n generalizing s with
  | zero =>
    obtain rfl := next_inj hrun
    exact ⟨SameSession.refl _, pairings_self s⟩
  | succ n ih =>
    obtain ⟨u, hu, hrun⟩ := runs_succ.1 hrun
    obtain ⟨hhead, hno⟩ := noReset_succ_of_step hno hu
    obtain ⟨hsame, hzero⟩ | ⟨hdisc, -⟩ := step_session_cases hu hhead
    · obtain ⟨hrest, hrestZero⟩ := ih hno hrun (hsame.role.trans hs)
      exact ⟨hsame.trans hrest, by rw [pairings_of_step_runs hu hrun, hzero, hrestZero]⟩
    · rw [hs] at hdisc
      cases hdisc

/-- R161: a run without a reset pairs at most once, because a pairing leaves Discovering, and writes the session registers
only by pairing. -/
theorem runs_pairings_le_one {n : Nat} {s t : State} (hno : NoReset n s) (hrun : Runs n s t) :
    pairings s t ≤ 1 ∧ (pairings s t = 0 → SameSession s.regs t.regs) := by
  induction n generalizing s with
  | zero =>
    obtain rfl := next_inj hrun
    exact ⟨by simp [pairings_self], fun _ => SameSession.refl _⟩
  | succ n ih =>
    obtain ⟨u, hu, hrun⟩ := runs_succ.1 hrun
    obtain ⟨hhead, hno⟩ := noReset_succ_of_step hno hu
    rw [pairings_of_step_runs hu hrun]
    obtain ⟨hsame, hzero⟩ | ⟨-, hpaired, hone⟩ := step_session_cases hu hhead
    · obtain ⟨hle, hrest⟩ := ih hno hrun
      rw [hzero, Nat.zero_add]
      exact ⟨hle, fun h => hsame.trans (hrest h)⟩
    · obtain ⟨-, hrestZero⟩ := runs_of_paired hno hrun hpaired
      rw [hone, hrestZero]
      exact ⟨le_rfl, nofun⟩

/-- Settles O46, by induction on the run (`runs_of_paired`). -/
theorem pairedPersistsUntilReset : Obligations.PairedPersistsUntilReset := by
  intro n s t hno hrun hs
  obtain ⟨hsame, -⟩ := runs_of_paired hno hrun hs
  exact ⟨hsame.role.trans hs, hsame.peerAddr, hsame.deviceId, hsame.clockOffset, hsame.stillBcast⟩

/-- Settles O47, by induction on the run (`runs_pairings_le_one`). -/
theorem pairingHappensAtMostOnce : Obligations.PairingHappensAtMostOnce := by
  intro n s t hno hrun
  obtain ⟨hle, hkeep⟩ := runs_pairings_le_one hno hrun
  exact ⟨hle, fun h => ⟨(hkeep h).clockOffset, (hkeep h).deviceId, (hkeep h).peerAddr⟩⟩

end Sys2Proof.Machine

/-! SUPPORT. The statements of spec/43_control.md: NOP completes with the status alone, and no other command ends that way
(R180). -/

namespace Sys2Proof.Machine

/-! ### What each command returns -/

/-- R180: NOP returns `OK` alone and writes no register. -/
theorem exec_nop_eq_next (s : State) : exec .nop s = .next (completed s s.regs (okWith .nothing)) := rfl

/-- The decoder never raises `OK` (R108). -/
theorem decodeFrame_ne_error_ok (c : Config) (B : Bytes) : decodeFrame c B ≠ .error .ok := by
  rw [decodeFrame_eq]
  split_ifs <;> nofun

section Returned
variable {s : State} {regs : Registers} {r : Result}

/-- ENC of either kind returns a frame (R106). -/
theorem encodeCommand_returns_frame {k : Kind} (h : encodeCommand k s = .next (completed s regs r)) :
    ∃ F, r = okWith (.frame F) := by
  unfold encodeCommand at h
  split at h
  · cases h
  · exact ⟨_, (completed_inj (next_inj h)).2.symm⟩

/-- CRC16 returns a CRC (R104). -/
theorem exec_crc16_returns_crc (h : exec .crc16 s = .next (completed s regs r)) : ∃ v, r = okWith (.crc v) := by
  obtain hn | hn := Nat.lt_or_ge s.cfg.NMAX (presented s).bytes.length
  · rw [exec_crc16_of_lt hn] at h
    cases h
  · rw [exec_crc16_eq_next hn] at h
    exact ⟨_, (completed_inj (next_inj h)).2.symm⟩

/-- DEC returns its fields, or raises (R108). -/
theorem exec_dec_returns_decResult (h : exec .dec s = .next (completed s regs r)) :
    r = decResult (decodeFrame s.cfg (presented s).bytes) := by
  obtain hn | hn := Nat.lt_or_ge s.cfg.NMAX (presented s).bytes.length
  · rw [exec_dec_of_lt hn] at h
    cases h
  · rw [exec_dec_eq_next hn] at h
    exact (completed_inj (next_inj h)).2.symm

/-- RX always returns a session outcome (R90). -/
theorem exec_rx_returns_session (h : exec .rx s = .next (completed s regs r)) : r.session ≠ none := by
  obtain ⟨e, ht⟩ | ⟨o, d, ht⟩ := exec_rx_next_cases h <;> obtain ⟨-, rfl⟩ := completed_inj ht
  · nofun
  · nofun

/-- SEQ and TX return the number they allocate (R131, R132). -/
theorem exec_returns_seq {i : Instr} (hi : i ∈ [.seqB, .seqU, .tx]) (h : exec i s = .next (completed s regs r)) :
    outSeq r ≠ none := by
  obtain ⟨hni, -⟩ | ⟨k, r', -, ht, hseq, -⟩ | ⟨rfl, -⟩ := exec_next_cases h
  · exact absurd hi hni
  · obtain ⟨-, rfl⟩ := completed_inj ht
    simp [hseq]
  · simp at hi

end Returned

/-- R180: a command that returns `OK` alone, whatever registers it leaves, is NOP. -/
theorem eq_nop_of_returns_ok_alone {i : Instr} {s : State} {regs : Registers}
    (h : exec i s = .next (completed s regs (okWith .nothing))) : i = .nop := by
  cases i with
  | nop => rfl
  | crc16 => obtain ⟨v, hr⟩ := exec_crc16_returns_crc h; cases hr
  | encB => obtain ⟨F, hr⟩ := encodeCommand_returns_frame h; cases hr
  | encU => obtain ⟨F, hr⟩ := encodeCommand_returns_frame h; cases hr
  | dec =>
    exact absurd (decResult_eq_raised (exec_dec_returns_decResult h).symm) (decodeFrame_ne_error_ok _ _)
  | seqB => exact absurd rfl (exec_returns_seq (by decide) h)
  | seqU => exact absurd rfl (exec_returns_seq (by decide) h)
  | tx => exact absurd rfl (exec_returns_seq (by decide) h)
  | rx => exact absurd rfl (exec_rx_returns_session h)
  | tsadj => cases (completed_inj (next_inj h)).2
  | status => cases (completed_inj (next_inj h)).2

/-- Settles O16: every other command returns a value or a session outcome beside the status, and a raise is never `OK`
(`eq_nop_of_returns_ok_alone`). -/
theorem nopReturnsOkOnly : Obligations.NopReturnsOkOnly :=
  ⟨decode_encode .nop, exec_nop_eq_next, fun _ _ => eq_nop_of_returns_ok_alone⟩

end Sys2Proof.Machine

/-! SUPPORT. The statements of spec/60_exceptions.md: which steps the interface refuses (R207), and what a raise leaves
alone (R191). -/

namespace Sys2Proof.Machine

/-! ### Operands of a wrong length (R78, R207) -/

/-- The operands that break R78's lengths, which are those R207 refuses. -/
theorem inputs_wf_eq_false_iff {c : Config} {i : Instr} {x : Inputs} :
    x.wf c i = false ↔
      (i ∈ [.crc16, .dec, .rx] ∧ c.NMAX < x.bytes.length) ∨
      (i ∈ [.encB, .encU, .tx] ∧ x.payload.length ≠ c.L - 9) := by
  cases i <;> simp [Inputs.wf, plen_eq]

section Lengths
variable {s : State} {i : Instr}

theorem exec_of_bytes_too_long (hi : i ∈ [.crc16, .dec, .rx]) (hn : s.cfg.NMAX < (presented s).bytes.length) :
    exec i s = .refused .byteStringTooLong := by
  simp only [List.mem_cons, List.not_mem_nil, or_false] at hi
  obtain rfl | rfl | rfl := hi
  · exact exec_crc16_of_lt hn
  · exact exec_dec_of_lt hn
  · exact exec_rx_of_lt hn

theorem exec_of_payload_wrong_length (hi : i ∈ [.encB, .encU, .tx])
    (hp : (presented s).payload.length ≠ s.cfg.L - 9) : exec i s = .refused .payloadWrongLength := by
  simp only [List.mem_cons, List.not_mem_nil, or_false] at hi
  obtain rfl | rfl | rfl := hi
  · exact exec_encOf_of_ne .broadcast hp
  · exact exec_encOf_of_ne .unicast hp
  · exact exec_tx_of_ne hp

/-- Operands of a wrong length leave their command without a next state. -/
theorem exec_ne_next_of_not_wf (hx : (presented s).wf s.cfg i = false) (t : State) : exec i s ≠ .next t := by
  obtain ⟨hi, hn⟩ | ⟨hi, hp⟩ := inputs_wf_eq_false_iff.1 hx
  · rw [exec_of_bytes_too_long hi hn]
    nofun
  · rw [exec_of_payload_wrong_length hi hp]
    nofun

/-- A command whose operands have R78's lengths has a next state. -/
theorem exists_exec_next_of_wf (hw : s.cfg.wf = true) (hx : (presented s).wf s.cfg i = true) :
    ∃ t, exec i s = .next t := by
  cases i with
  | nop => exact ⟨_, exec_nop_eq_next s⟩
  | crc16 => exact ⟨_, exec_crc16_eq_next (of_decide_eq_true hx)⟩
  | encB => exact ⟨_, exec_encOf_eq_next .broadcast hw (eq_of_beq hx)⟩
  | encU => exact ⟨_, exec_encOf_eq_next .unicast hw (eq_of_beq hx)⟩
  | dec => exact ⟨_, exec_dec_eq_next (of_decide_eq_true hx)⟩
  | seqB => exact ⟨_, exec_seqB_eq_next s⟩
  | seqU => exact ⟨_, exec_seqU_eq_next s⟩
  | tx => exact ⟨_, exec_tx_eq_next rfl hw (eq_of_beq hx)⟩
  | rx => exact ⟨_, exec_rx_eq_next (of_decide_eq_true hx)⟩
  | tsadj => exact ⟨_, exec_tsadj_eq_next s⟩
  | status => exact ⟨_, rfl⟩

end Lengths

/-- R204: with nothing presented a step keeps the whole state. -/
theorem step_of_nothing_presented {s : State} (hw : s.cfg.wf = true) (hi : s.inbox = []) : step s = .next s := by
  simp [step, configAccepted, hw, hi, idle]

/-- R220: a reset event is taken in any state. -/
theorem step_of_reset {s : State} {e : BitVec 32} {rest : List HostEvent} (hw : s.cfg.wf = true)
    (hi : s.inbox = .reset e :: rest) : step s = takeReset e s := by
  simp [step, configAccepted, hw, hi]

/-- Under an accepted configuration a step without a next state has a legal command presented, with operands of a wrong
length: idling, a reset and an illegal word always have one (R204, R220, R181). -/
theorem wrong_lengths_of_no_step {s : State} (hw : s.cfg.wf = true) (h : ∀ t, step s ≠ .next t) :
    ∃ w x rest i, s.inbox = .command w x :: rest ∧ decode w = .ok i ∧ x.wf s.cfg i = false := by
  match hi : s.inbox with
  | [] => exact absurd (step_of_nothing_presented hw hi) (h s)
  | .reset e :: rest => exact absurd (step_of_reset hw hi) (h _)
  | .command w x :: rest =>
    cases hd : decode w with
    | error e => exact absurd (step_of_decode_error hw hi hd) (h _)
    | ok i =>
      refine ⟨w, x, rest, i, rfl, hd, Bool.eq_false_iff.2 fun hx => ?_⟩
      obtain ⟨t, ht⟩ := exists_exec_next_of_wf hw (presented_of_command hi ▸ hx)
      exact h t ((step_of_decode_ok hw hi hd).trans ht)

/-- Settles O12: every other step has a next state (`wrong_lengths_of_no_step`), and wrong lengths leave none
(`exec_ne_next_of_not_wf`). -/
theorem refusedExactlyOnWrongLengths : Obligations.RefusedExactlyOnWrongLengths := by
  intro s hw
  simp only [← inputs_wf_eq_false_iff]
  constructor
  · exact wrong_lengths_of_no_step hw
  · rintro ⟨w, x, rest, i, hi, hd, hx⟩ t
    rw [step_of_decode_ok hw hi hd]
    exact exec_ne_next_of_not_wf (by rwa [presented_of_command hi]) t

/-! ### What a raise leaves alone (R191) -/

section Raise
variable {s : State} {regs : Registers} {r : Result}

/-- TX never raises (R132). -/
theorem exec_tx_returns_sent (h : exec .tx s = .next (completed s regs r)) : ∃ x, r = okWith (.sent x) := by
  simp only [exec, execTx] at h
  split at h
  · cases h
  · exact ⟨_, (completed_inj (next_inj h)).2.symm⟩

/-- A raise of DEC returns its status alone. -/
theorem eq_raised_of_decResult {a : Except Status Decoded} (ha : (decResult a).status ≠ .ok) :
    ∃ e, decResult a = raised e := by
  cases a with
  | ok d => exact absurd rfl ha
  | error e => exact ⟨e, rfl⟩

/-- Of the commands only DEC and RX raise, and they write no register when they do. -/
theorem raise_of_exec {i : Instr} (h : exec i s = .next (completed s regs r)) (hr : r.status ≠ .ok) :
    regs = s.regs ∧ ∃ e, i = .dec ∧ r = raised e ∨ i = .rx ∧ r = rxRaised e := by
  cases i with
  | nop => obtain ⟨-, rfl⟩ := completed_inj (next_inj h); exact absurd rfl hr
  | crc16 => obtain ⟨v, rfl⟩ := exec_crc16_returns_crc h; exact absurd rfl hr
  | encB => obtain ⟨F, rfl⟩ := encodeCommand_returns_frame h; exact absurd rfl hr
  | encU => obtain ⟨F, rfl⟩ := encodeCommand_returns_frame h; exact absurd rfl hr
  | dec =>
    obtain ⟨r', ht⟩ := readOnlyCommandsFrame .dec s _ (by decide) h
    obtain rfl := exec_dec_returns_decResult h
    obtain ⟨e, he⟩ := eq_raised_of_decResult hr
    exact ⟨(completed_inj ht).1, e, .inl ⟨rfl, he⟩⟩
  | seqB => obtain ⟨-, rfl⟩ := completed_inj (next_inj h); exact absurd rfl hr
  | seqU => obtain ⟨-, rfl⟩ := completed_inj (next_inj h); exact absurd rfl hr
  | tx => obtain ⟨x, rfl⟩ := exec_tx_returns_sent h; exact absurd rfl hr
  | rx =>
    obtain ⟨e, ht⟩ | ⟨o, d, ht⟩ := exec_rx_next_cases h <;> obtain ⟨hregs, rfl⟩ := completed_inj ht
    · exact ⟨hregs, e, .inr ⟨rfl, rfl⟩⟩
    · exact absurd rfl hr
  | tsadj => obtain ⟨-, rfl⟩ := completed_inj (next_inj h); exact absurd rfl hr
  | status => obtain ⟨-, rfl⟩ := completed_inj (next_inj h); exact absurd rfl hr

end Raise

/-- A word that decodes to anything but RX is not RX's word. -/
theorem ne_rx_word_of_decode {w : BitVec 8} (h : decode w ≠ .ok .rx) : w ≠ 0x06 :=
  fun hw => h ((decode_rx w).2 hw)

/-- Settles O14: an illegal word raises without a write, and of the legal ones only DEC and RX raise (`raise_of_exec`). -/
theorem raiseWritesNoRegister : Obligations.RaiseWritesNoRegister := by
  intro s t w x rest r hi h hret hr
  have hw := wf_of_step_next h
  cases hd : decode w with
  | error e =>
    rw [step_of_decode_error hw hi hd] at h
    obtain rfl := next_inj h
    obtain rfl : raised .illegalCommand = r := by simpa using hret
    exact ⟨rfl, rfl, (if_neg (ne_rx_word_of_decode (by simp [hd]))).symm⟩
  | ok i =>
    rw [step_of_decode_ok hw hi hd] at h
    rw [eq_completed_of_returned h hret] at h
    obtain ⟨hregs, e, ⟨rfl, rfl⟩ | ⟨rfl, rfl⟩⟩ := raise_of_exec h hr
    · exact ⟨hregs, rfl, (if_neg (ne_rx_word_of_decode (by simp [hd]))).symm⟩
    · exact ⟨hregs, rfl, (if_pos ((decode_rx w).1 hd)).symm⟩

end Sys2Proof.Machine

/-! SUPPORT. The statements of spec/70_reset_and_hazards.md: the reset event and the state a run starts from (R220, R222),
and TX before and after a pairing (R226). -/

namespace Sys2Proof.Machine

/-! ### Reset (R220, R222) -/

/-- Settles O8: with an accepted configuration the event is taken (`step_of_reset`), which drops it from the inbox and
writes the eight reset values. -/
theorem resetEventSetsEveryRegister : Obligations.ResetEventSetsEveryRegister := by
  intro s entropy rest hw hi
  have htail : s.inbox.tail = rest := congrArg List.tail hi
  rw [step_of_reset hw hi, takeReset, htail]
  rfl

/-- Settles O9: `State.afterReset` holds `Registers.atReset`, and `State.reset` is one such state. -/
theorem runStartsJustAfterReset : Obligations.RunStartsJustAfterReset :=
  ⟨fun _ _ => rfl, rfl⟩

/-! ### TX around a pairing (R226) -/

/-- Settles O48: RX pairs only from Discovering, where the invariant gives `PEER_ADDR` the broadcast address, and leaves
the registers of the pairing action, whose role is Paired and whose peer is the sender; TX at each role is
`exec_tx_eq_next`. -/
theorem pairingRedirectsTx : Obligations.PairingRedirectsTx := by
  intro s t u d hinv hw hrx hret hregs hcfg hp
  have ht := eq_completed_of_returned hrx hret
  rw [ht] at hrx
  obtain ⟨⟨-, -, -, hrole, -⟩, hpaired⟩ := exec_rx_eq_pairedNow_iff.1 hrx
  obtain ⟨hbcast, -, -⟩ := hinv.2 hrole
  have hwu : u.cfg.wf = true := by rw [hcfg, ht, completed_cfg, hw]
  have hu : u.regs = pairedRegisters s.regs (presented s).src (presented s).localTime d.payload := hregs.trans hpaired
  constructor
  · exact ⟨_, exec_tx_eq_next (s := { u with regs := s.regs }) (k := .broadcast) (congrArg roleKind hrole) hwu hp,
      rfl, hbcast, rfl⟩
  · have htx := exec_tx_eq_next (k := .unicast) (by rw [hu]; rfl) hwu hp
    rw [hu] at htx
    rw [hpaired]
    exact ⟨_, htx, rfl, rfl, rfl⟩

end Sys2Proof.Machine

/-! SUPPORT. The two readings the model rests on its own log for: equal kind codes are refused (log 8), and a step with
nothing presented idles (log 4). -/

namespace Sys2Proof.Machine

/-- R9's constraint on the kind codes, as the model reads it (log 8): a configuration that gives both kinds one code is
not accepted. -/
theorem wf_eq_false_of_equal_kinds {c : Config} (h : c.kindBcast = c.kindUcast) : c.wf = false := by
  rw [Bool.eq_false_iff, ne_eq, wf_iff]
  rintro ⟨-, -, hne⟩
  exact hne h

/-- Settles O6: such a configuration is not accepted, and what is not accepted has no step (`step_of_bad`). -/
theorem equalKindCodesHaveNoStep : Obligations.EqualKindCodesHaveNoStep :=
  fun _ h => step_of_bad (wf_eq_false_of_equal_kinds h)

/-- Settles O7: the step is the idle one, which answers the state it was given (`step_of_nothing_presented`). -/
theorem nothingPresentedChangesNothing : Obligations.NothingPresentedChangesNothing :=
  fun _ => step_of_nothing_presented

end Sys2Proof.Machine
